-- ==== Sys2Proof/Word.lean ====
section
/-! DEFINITION. The words and indexes of the block: instance widths, the command word, register numbers,
map numbers, directions. -/

namespace Sys2Proof

/-- The width `W` of an instance: `AMC-W32` or `AMC-W64` (00_scope.md R4, R5). -/
inductive Width where
  | w32
  | w64
deriving DecidableEq, Repr

/-- `W` as a number of bits. -/
def Width.bits : Width → Nat
  | .w32 => 32
  | .w64 => 64

/-- A command word (30_encoding.md R90). -/
abbrev Command := BitVec 32

/-- A byte of a byte-addressed bus (20_memory.md R60). -/
abbrev Byte := BitVec 8

/-- A data register number, `x0` to `x15` (10_state.md R20). -/
abbrev RegNum := Fin 16

/-- A map number, `m0` to `m7` (10_state.md R21). -/
abbrev MapNum := Fin 8

/-- A table direction: `d = 0` forward, `d = 1` backward (30_encoding.md R93). -/
inductive Dir where
  | forward
  | backward
deriving DecidableEq, Repr

end Sys2Proof
end

