-- ==== Sys2Proof/Config.lean ====
section
/-! DEFINITION. What an instance of the block fixes (00_scope.md R4). The spec leaves no value free: there is no
uninterpreted constant here. -/

namespace Sys2Proof

/-- What the platform shows the host for an access the block did not perform: "an exception of the host, a value"
(60_exceptions.md R262). -/
inductive PlatformResponse where
  | exception
  | value (v : BitVec 64)
deriving DecidableEq, Repr

/-- The parameters of one instance (00_scope.md R4) and of its platform (93_implementation_defined.md section 2).
Latencies have no place in a model without time (70_reset_and_hazards.md R300, log 8). -/
structure Config where
  /-- `W` -/
  width : Width
  /-- `RT_PRESENT` -/
  rtPresent : Bool
  /-- `REVSTD_PRESENT` -/
  revstdPresent : Bool
  /-- `REVSTD_MUL` -/
  revstdMul : BitVec 32
  /-- `REVSTD_ADD` -/
  revstdAdd : BitVec 32
  /-- `REVSTD_INVMUL` -/
  revstdInvMul : BitVec 32
  /-- `REVSTD_INVADD` -/
  revstdInvAdd : BitVec 32
  /-- `AMC_BASE`, where the platform places the window (20_memory.md R63; log 6) -/
  amcBase : Nat
  /-- `BUS_ERROR_RESPONSE` (60_exceptions.md R262; log 5) -/
  busErrorResponse : PlatformResponse
  /-- `RESET_DURING_ACCESS_RESPONSE` (70_reset_and_hazards.md R292; log 5) -/
  resetDuringAccessResponse : PlatformResponse
deriving DecidableEq, Repr

/-- The reference configuration `AMC-W32` of 95_test_vectors.md: `RT_PRESENT = 1`, `REVSTD_PRESENT = 0`. The four
`REVSTD` literals, which nothing reads while `REVSTD_PRESENT = 0`, and the platform's three parameters, on which no
transition depends, are given values there for the model's sake (DESIGN CHOICE, log 1). -/
def Config.reference : Config where
  width := .w32
  rtPresent := true
  revstdPresent := false
  revstdMul := 0
  revstdAdd := 0
  revstdInvMul := 0
  revstdInvAdd := 0
  amcBase := 0
  busErrorResponse := .exception
  resetDuringAccessResponse := .exception

/-- The reference configuration `AMC-W64` of 95_test_vectors.md. -/
def Config.reference64 : Config := { Config.reference with width := .w64 }

/-- What the spec requires of the open ReverseStdLCG literals when the variant is present: an odd multiplier and a
backward map that undoes the forward one (40_variant_and_tables.md R125, R126). -/
abbrev Config.revstdSound (c : Config) : Prop :=
  c.revstdPresent = true →
    c.revstdMul.getLsbD 0 = true ∧ c.revstdInvMul * c.revstdMul = 1 ∧
      c.revstdInvMul * c.revstdAdd + c.revstdInvAdd = 0

end Sys2Proof
end

