-- ==== Sys2Proof/Syntax.lean ====
section
/-! DEFINITION. The command set AMC version 1: opcodes, commands, fault causes. -/

namespace Sys2Proof

/-- The opcodes, one for each row of 30_encoding.md R94, in its order. -/
inductive Op where
  | nop | vsel | dtb | rtb | ldx | rdx | mov | stf | stb | jdf | jdb | jrf | jrb | gix | gixr
  | mcmp | mapp | msq | mbase | mdt | mrt | mid
deriving DecidableEq, Repr

/-- A command with its operands, one constructor for each row of spec/opcode_table.json. Operands are named as in
30_encoding.md R97: `xd`, `xs`, `xn`, `xo` data registers, `md`, `ms1`, `ms2` maps, `d` a direction. -/
inductive Instr where
  | nop
  | vsel (code : BitVec 12)
  | dtb
  | rtb
  | ldx (xd : RegNum)
  | rdx (xs : RegNum)
  | mov (xd xs : RegNum)
  | stf (xd xs : RegNum)
  | stb (xd xs : RegNum)
  | jdf (xd xs xn : RegNum)
  | jdb (xd xs xn : RegNum)
  | jrf (xd xs xn : RegNum)
  | jrb (xd xs xn : RegNum)
  | gix (xd xs : RegNum)
  | gixr (xd xs xo : RegNum)
  | mcmp (md ms1 ms2 : MapNum)
  | mapp (xd : RegNum) (ms1 : MapNum) (xs : RegNum)
  | msq (md ms1 : MapNum)
  | mbase (md : MapNum) (d : Dir)
  | mdt (md : MapNum) (d : Dir) (i : BitVec 7)
  | mrt (md : MapNum) (d : Dir) (p : BitVec 3) (v : BitVec 8)
  | mid (md : MapNum)
deriving DecidableEq, Repr

/-- The fault causes (60_exceptions.md R250); the reserved codes 6 to 15 are never raised and have no name. -/
inductive Cause where
  | illegalOpcode
  | illegalOperand
  | illegalVariant
  | noVariant
  | indexRange
deriving DecidableEq, Repr

end Sys2Proof
end

