-- ==== Sys2Proof/WellFormed.lean ====
section
/-! DEFINITION. Which commands an instance has: the commands that 30_encoding.md R95 lets through for some word. -/

namespace Sys2Proof

/-- RTB, JRF, JRB and MRT exist only when `RT_PRESENT = 1` (30_encoding.md R94). -/
def Instr.presentIn (c : Config) : Instr → Bool
  | .rtb => c.rtPresent
  | .jrf _ _ _ => c.rtPresent
  | .jrb _ _ _ => c.rtPresent
  | .mrt _ _ _ _ => c.rtPresent
  | .nop => true
  | .vsel _ => true
  | .dtb => true
  | .ldx _ => true
  | .rdx _ => true
  | .mov _ _ => true
  | .stf _ _ => true
  | .stb _ _ => true
  | .jdf _ _ _ => true
  | .jdb _ _ _ => true
  | .gix _ _ => true
  | .gixr _ _ _ => true
  | .mcmp _ _ _ => true
  | .mapp _ _ _ => true
  | .msq _ _ => true
  | .mbase _ _ => true
  | .mdt _ _ _ => true
  | .mid _ => true

/-- MDT names a table position below `W`, MRT a byte position below `W/8` (30_encoding.md R93). -/
def Instr.indexFits (c : Config) : Instr → Bool
  | .mdt _ _ i => decide (i.toNat < c.width.bits)
  | .mrt _ _ p _ => decide (p.toNat < c.width.bits / 8)
  | .nop => true
  | .vsel _ => true
  | .dtb => true
  | .rtb => true
  | .ldx _ => true
  | .rdx _ => true
  | .mov _ _ => true
  | .stf _ _ => true
  | .stb _ _ => true
  | .jdf _ _ _ => true
  | .jdb _ _ _ => true
  | .jrf _ _ _ => true
  | .jrb _ _ _ => true
  | .gix _ _ => true
  | .gixr _ _ _ => true
  | .mcmp _ _ _ => true
  | .mapp _ _ _ => true
  | .msq _ _ => true
  | .mbase _ _ => true
  | .mid _ => true

/-- A command an instance can be given. An unsupported VSEL code is no encoding fault (30_encoding.md R96), so every
code is well formed. -/
def Instr.wellFormed (c : Config) (i : Instr) : Bool := i.presentIn c && i.indexFits c

end Sys2Proof
end

