-- ==== Sys2Proof/Decode.lean ====
section
/-! DEFINITION. Command words: the opcode map (30_encoding.md R94), decoding with its faults in their order (R95),
and the encoder. -/

namespace Sys2Proof

/-! ## Fields (R90) -/

/-- `OP`, bits 31:24. -/
def opField (w : Command) : BitVec 8 := w.extractLsb' 24 8
/-- `RD`, bits 23:20. -/
def rdField (w : Command) : BitVec 4 := w.extractLsb' 20 4
/-- `RS1`, bits 19:16. -/
def rs1Field (w : Command) : BitVec 4 := w.extractLsb' 16 4
/-- `RS2`, bits 15:12. -/
def rs2Field (w : Command) : BitVec 4 := w.extractLsb' 12 4
/-- `IMM`, bits 11:0. -/
def immField (w : Command) : BitVec 12 := w.extractLsb' 0 12

/-- A register field names `x0` to `x15` (R91). -/
def regOf (f : BitVec 4) : RegNum := ⟨f.toNat, f.isLt⟩
/-- A map field holds the map number in its bits 2:0 (R91). -/
def mapOf (f : BitVec 4) : MapNum := ⟨(f.extractLsb' 0 3).toNat, (f.extractLsb' 0 3).isLt⟩
/-- The direction in `IMM[0]` (R93). -/
def dirOf (imm : BitVec 12) : Dir := if imm.getLsbD 0 then .backward else .forward

/-! ## The opcode map (R94) -/

/-- The opcodes in the table's order. -/
def Op.all : List Op :=
  [.nop, .vsel, .dtb, .rtb, .ldx, .rdx, .mov, .stf, .stb, .jdf, .jdb, .jrf, .jrb, .gix, .gixr,
   .mcmp, .mapp, .msq, .mbase, .mdt, .mrt, .mid]

/-- Column OP. -/
def Op.code : Op → BitVec 8
  | .nop => 0x00 | .vsel => 0x01 | .dtb => 0x02 | .rtb => 0x03 | .ldx => 0x04 | .rdx => 0x05 | .mov => 0x06
  | .stf => 0x10 | .stb => 0x11 | .jdf => 0x12 | .jdb => 0x13 | .jrf => 0x14 | .jrb => 0x15
  | .gix => 0x20 | .gixr => 0x21
  | .mcmp => 0x30 | .mapp => 0x31 | .msq => 0x32 | .mbase => 0x33 | .mdt => 0x34 | .mrt => 0x35 | .mid => 0x36

/-- Column mask. -/
def Op.mask : Op → Command
  | .nop => 0xFFFFFFFF | .vsel => 0xFFFFF000 | .dtb => 0xFFFFFFFF | .rtb => 0xFFFFFFFF
  | .ldx => 0xFF0FFFFF | .rdx => 0xFFF0FFFF | .mov => 0xFF00FFFF
  | .stf => 0xFF00FFFF | .stb => 0xFF00FFFF
  | .jdf => 0xFF000FFF | .jdb => 0xFF000FFF | .jrf => 0xFF000FFF | .jrb => 0xFF000FFF
  | .gix => 0xFF00FFFF | .gixr => 0xFF000FFF
  | .mcmp => 0xFF888FFF | .mapp => 0xFF080FFF | .msq => 0xFF88FFFF
  | .mbase => 0xFF8FFFFE | .mdt => 0xFF8FFF00 | .mrt => 0xFF8FF000 | .mid => 0xFF8FFFFF

/-- Column match: the opcode with every other required bit 0. -/
def Op.pattern (op : Op) : Command := op.code ++ (0 : BitVec 24)

/-- The rows marked RT. -/
def Op.radixOnly : Op → Bool
  | .rtb | .jrf | .jrb | .mrt => true
  | .nop | .vsel | .dtb | .ldx | .rdx | .mov | .stf | .stb | .jdf | .jdb | .gix | .gixr
  | .mcmp | .mapp | .msq | .mbase | .mdt | .mid => false

/-- The row of an `OP` value, if it is one of R94. -/
def Op.ofCode (code : BitVec 8) : Option Op := Op.all.find? fun op => op.code == code

/-! ## Decoding (R95) -/

/-- The table position of the instance is exceeded: MDT with `w[7:1] >= W`, MRT with `w[3:1] >= W/8` (R95). -/
def indexOutOfRange (c : Config) (op : Op) (w : Command) : Bool :=
  (op == .mdt && decide (c.width.bits ≤ (w.extractLsb' 1 7).toNat)) ||
    (op == .mrt && decide (c.width.bits / 8 ≤ (w.extractLsb' 1 3).toNat))

/-- The command of an opcode with the fields of R90, as R94 uses them. -/
def operandsOf (op : Op) (w : Command) : Instr :=
  match op with
  | .nop => .nop
  | .vsel => .vsel (immField w)
  | .dtb => .dtb
  | .rtb => .rtb
  | .ldx => .ldx (regOf (rdField w))
  | .rdx => .rdx (regOf (rs1Field w))
  | .mov => .mov (regOf (rdField w)) (regOf (rs1Field w))
  | .stf => .stf (regOf (rdField w)) (regOf (rs1Field w))
  | .stb => .stb (regOf (rdField w)) (regOf (rs1Field w))
  | .jdf => .jdf (regOf (rdField w)) (regOf (rs1Field w)) (regOf (rs2Field w))
  | .jdb => .jdb (regOf (rdField w)) (regOf (rs1Field w)) (regOf (rs2Field w))
  | .jrf => .jrf (regOf (rdField w)) (regOf (rs1Field w)) (regOf (rs2Field w))
  | .jrb => .jrb (regOf (rdField w)) (regOf (rs1Field w)) (regOf (rs2Field w))
  | .gix => .gix (regOf (rdField w)) (regOf (rs1Field w))
  | .gixr => .gixr (regOf (rdField w)) (regOf (rs1Field w)) (regOf (rs2Field w))
  | .mcmp => .mcmp (mapOf (rdField w)) (mapOf (rs1Field w)) (mapOf (rs2Field w))
  | .mapp => .mapp (regOf (rdField w)) (mapOf (rs1Field w)) (regOf (rs2Field w))
  | .msq => .msq (mapOf (rdField w)) (mapOf (rs1Field w))
  | .mbase => .mbase (mapOf (rdField w)) (dirOf (immField w))
  | .mdt => .mdt (mapOf (rdField w)) (dirOf (immField w)) ((immField w).extractLsb' 1 7)
  | .mrt => .mrt (mapOf (rdField w)) (dirOf (immField w)) ((immField w).extractLsb' 1 3) ((immField w).extractLsb' 4 8)
  | .mid => .mid (mapOf (rdField w))

/-- Decoding a command word on an instance: total, the first test of R95 that applies decides. -/
def decode (c : Config) (w : Command) : Except Cause Instr :=
  match Op.ofCode (opField w) with
  | none => .error .illegalOpcode
  | some op =>
    if op.radixOnly && !c.rtPresent then .error .illegalOpcode
    else if w &&& op.mask != op.pattern then .error .illegalOperand
    else if indexOutOfRange c op w then .error .indexRange
    else .ok (operandsOf op w)

/-! ## Encoding -/

/-- A register number as a field. -/
def regBits (r : RegNum) : BitVec 4 := BitVec.ofNat 4 r.val
/-- A map number as a field, bit 3 being 0 (R91). -/
def mapBits (m : MapNum) : BitVec 4 := BitVec.ofNat 4 m.val
/-- A direction as `IMM[0]` (R93). -/
def dirBit : Dir → BitVec 1
  | .forward => 0
  | .backward => 1

/-- A command word from its fields (R90). -/
def commandWord (op : Op) (rd rs1 rs2 : BitVec 4) (imm : BitVec 12) : Command :=
  op.code ++ rd ++ rs1 ++ rs2 ++ imm

/-- The opcode of a command. -/
def opOf : Instr → Op
  | .nop => .nop
  | .vsel _ => .vsel
  | .dtb => .dtb
  | .rtb => .rtb
  | .ldx _ => .ldx
  | .rdx _ => .rdx
  | .mov _ _ => .mov
  | .stf _ _ => .stf
  | .stb _ _ => .stb
  | .jdf _ _ _ => .jdf
  | .jdb _ _ _ => .jdb
  | .jrf _ _ _ => .jrf
  | .jrb _ _ _ => .jrb
  | .gix _ _ => .gix
  | .gixr _ _ _ => .gixr
  | .mcmp _ _ _ => .mcmp
  | .mapp _ _ _ => .mapp
  | .msq _ _ => .msq
  | .mbase _ _ => .mbase
  | .mdt _ _ _ => .mdt
  | .mrt _ _ _ _ => .mrt
  | .mid _ => .mid

/-- The word of a command: the fields R94 lists for it, every other bit 0 (R92). -/
def encode : Instr → Command
  | .nop => commandWord .nop 0 0 0 0
  | .vsel code => commandWord .vsel 0 0 0 code
  | .dtb => commandWord .dtb 0 0 0 0
  | .rtb => commandWord .rtb 0 0 0 0
  | .ldx xd => commandWord .ldx (regBits xd) 0 0 0
  | .rdx xs => commandWord .rdx 0 (regBits xs) 0 0
  | .mov xd xs => commandWord .mov (regBits xd) (regBits xs) 0 0
  | .stf xd xs => commandWord .stf (regBits xd) (regBits xs) 0 0
  | .stb xd xs => commandWord .stb (regBits xd) (regBits xs) 0 0
  | .jdf xd xs xn => commandWord .jdf (regBits xd) (regBits xs) (regBits xn) 0
  | .jdb xd xs xn => commandWord .jdb (regBits xd) (regBits xs) (regBits xn) 0
  | .jrf xd xs xn => commandWord .jrf (regBits xd) (regBits xs) (regBits xn) 0
  | .jrb xd xs xn => commandWord .jrb (regBits xd) (regBits xs) (regBits xn) 0
  | .gix xd xs => commandWord .gix (regBits xd) (regBits xs) 0 0
  | .gixr xd xs xo => commandWord .gixr (regBits xd) (regBits xs) (regBits xo) 0
  | .mcmp md ms1 ms2 => commandWord .mcmp (mapBits md) (mapBits ms1) (mapBits ms2) 0
  | .mapp xd ms1 xs => commandWord .mapp (regBits xd) (mapBits ms1) (regBits xs) 0
  | .msq md ms1 => commandWord .msq (mapBits md) (mapBits ms1) 0 0
  | .mbase md d => commandWord .mbase (mapBits md) 0 0 ((0 : BitVec 11) ++ dirBit d)
  | .mdt md d i => commandWord .mdt (mapBits md) 0 0 ((0 : BitVec 4) ++ i ++ dirBit d)
  | .mrt md d p v => commandWord .mrt (mapBits md) 0 0 (v ++ p ++ dirBit d)
  | .mid md => commandWord .mid (mapBits md) 0 0 0

/-- The host's reading of one opcode-table row: the command of the 32-bit word `w` on the reference instance (log 12).
A command word is one 32-bit value (R90), so it is laid out whole. -/
def decodeTableWord (nbits w : Nat) : Option Instr :=
  match decode Config.reference (BitVec.ofNat 32 (w % 2 ^ nbits)) with
  | .ok i => some i
  | .error _ => none

end Sys2Proof
end

