-- ==== Sys2Proof/Machine/State.lean ====
section
/-! DEFINITION. The state of the machine: the block's architectural state (10_state.md), the parameters of its
instance, the inputs the host has issued, the last answer of the host port; the reasons to stop; reset. -/

namespace Sys2Proof.Machine

/-! ## Values -/

/-- An affine map `S -> a*S + b` (40_variant_and_tables.md R120). -/
structure AffineMap (w : Nat) where
  a : BitVec w
  b : BitVec w
deriving DecidableEq, Repr

/-- A parameter set `(mul, add, invMul, invAdd)` (10_state.md R23). -/
structure ParamSet (w : Nat) where
  mul : BitVec w
  add : BitVec w
  invMul : BitVec w
  invAdd : BitVec w
deriving DecidableEq, Repr

/-- One direction of the doubling table: `W` maps (10_state.md R25). -/
abbrev DoublingTable (w : Nat) := Vector (AffineMap w) w

/-- One direction of the radix table: `W/8` rows of 256 maps (10_state.md R26). -/
abbrev RadixTable (w : Nat) := Vector (Vector (AffineMap w) 256) (w / 8)

/-- Both directions of a table: `d = 0` and `d = 1`. -/
structure BothWays (α : Type) where
  fwd : α
  bwd : α
deriving DecidableEq, Repr

/-- A row of the variant registry (40_variant_and_tables.md R124): its width and its constants, which are read at that
width. -/
structure VariantRow where
  width : Width
  mul : BitVec 64
  add : BitVec 64
  invMul : BitVec 64
  invAdd : BitVec 64
deriving DecidableEq, Repr

/-! ## The block -/

/-- The architectural state of an instance of width `w` (10_state.md). The valid bits `DTVALID` and `RTVALID` are
`dt.isSome` and `rt.isSome`: an invalid table has no contents (R25, R26; log 2). STATUS, CMD and CONFIG are computed
(R33, R30, R36). -/
structure Block (w : Nat) where
  /-- `x0` to `x15` (R20) -/
  x : Vector (BitVec w) 16
  /-- `P.MUL`, `P.ADD`, `P.INVMUL`, `P.INVADD` (R23) -/
  p : ParamSet w
  /-- `PVALID` (R24) -/
  pvalid : Bool
  /-- `VAR` (R24) -/
  var : BitVec 3
  /-- `DT` and `DTVALID` (R25) -/
  dt : Option (BothWays (DoublingTable w))
  /-- `RT` and `RTVALID` (R26) -/
  rt : Option (BothWays (RadixTable w))
  /-- `DATA_IN` (R31) -/
  dataIn : BitVec w
  /-- `DATA_OUT` (R32) -/
  dataOut : BitVec w
  /-- `STATUS.FAULT` and `STATUS.CAUSE`: `none` is `FAULT = 0`, `CAUSE = 0` (R33; log 10) -/
  fault : Option Cause
  /-- `FCMD` (R35) -/
  fcmd : BitVec 32
deriving DecidableEq, Repr

/-- The reset values of 10_state.md R41. -/
def Block.reset (w : Nat) : Block w where
  x := Vector.replicate 16 0
  p := { mul := 0, add := 0, invMul := 0, invAdd := 0 }
  pvalid := false
  var := 0
  dt := none
  rt := none
  dataIn := 0
  dataOut := 0
  fault := none
  fcmd := 0

/-! ## The host's side -/

/-- The assigned host registers (10_state.md R30). -/
inductive HostReg where
  | cmd
  | dataIn
  | dataOut
  | status
  | fcmd
  | config
deriving DecidableEq, Repr

/-- A host access: by host register number, moving a value of some number of bits; or, where the platform maps the host
registers onto a byte-addressed bus, at a byte offset from the base of the window of 16 slots of 8 bytes, moving some
bytes, the one at the lowest address first (20_memory.md R60, R61, R63; 44_register_transfer.md R233; log 6). -/
inductive HostAccess where
  | read (r : Fin 16) (bits : Nat)
  | write (r : Fin 16) (bits : Nat) (value : BitVec bits)
  | readBytes (o : Fin 128) (count : Nat)
  | writeBytes (o : Fin 128) (bytes : List Byte)
deriving DecidableEq, Repr

/-- What the outside world does to the block: an access, a reset between accesses, or a reset asserted while an access
is performed, which that access does not survive (70_reset_and_hazards.md R290, R292). Which accesses such a reset
interrupts is the model's choice (DESIGN CHOICE, log 16): the one under way, and any other the list gives as
`resetDuring`. -/
inductive HostInput where
  | access (a : HostAccess)
  | reset
  | resetDuring (a : HostAccess)
deriving DecidableEq, Repr

/-- A value of a register's width, as a host read returns it. -/
structure HostValue where
  bits : Nat
  value : BitVec bits
deriving DecidableEq, Repr

/-- What the host port answered last (log 5). -/
inductive HostResponse where
  /-- nothing since reset -/
  | silent
  /-- a write was performed (with its effect, none, or a fault recorded: R233) -/
  | accepted
  /-- a read returned a value (R236) -/
  | value (v : HostValue)
  /-- a read on a byte-addressed bus returned a value's bytes, the one at the lowest address first (R236, R60) -/
  | bytes (bytes : List Byte)
  /-- the access was refused (60_exceptions.md R262); what the host sees of it is the platform's -/
  | busError
  /-- the access was under way when reset was asserted (70_reset_and_hazards.md R292); the answer is the platform's -/
  | interruptedByReset
deriving DecidableEq, Repr

/-- What the host sees of an answer. -/
inductive HostView where
  | nothing
  | done
  | value (v : HostValue)
  | bytes (bytes : List Byte)
  | platform (r : PlatformResponse)
deriving DecidableEq, Repr

/-! ## The machine -/

/-- The state: an instance, its block, and the host's side of the port. -/
structure State where
  /-- the instance's parameters, which nothing changes (00_scope.md R4; log 1) -/
  cfg : Config
  /-- the block -/
  blk : Block cfg.width.bits
  /-- the inputs not yet performed, oldest first (44_register_transfer.md R233; log 3) -/
  pending : List HostInput
  /-- the last answer of the host port (log 5) -/
  response : HostResponse
deriving DecidableEq, Repr

/-- The machine right after reset of an instance: nothing issued, nothing answered. -/
def State.resetOf (c : Config) : State where
  cfg := c
  blk := Block.reset c.width.bits
  pending := []
  response := .silent

/-- The machine right after reset (10_state.md R41), the reference instance of 95_test_vectors.md (log 1). -/
def State.reset : State := State.resetOf Config.reference

/-- The reasons to stop with a fault: none. Every fault the spec describes is recorded in STATUS and the machine goes
on (60_exceptions.md R259), a bus error is an answer (R262), and no behaviour of the block is stuck
(93_implementation_defined.md; log 13). Safe: there is nothing to raise. -/
inductive Fault where
deriving DecidableEq, Repr

/-- The reasons to refuse. -/
inductive Refusal where
  /-- An arm of `exec` whose command has no meaning yet; raised by such an arm only. Safe. No arm raises it. -/
  | notModelled (mnemonic : String)
deriving DecidableEq, Repr

end Sys2Proof.Machine
end

