-- ==== Sys2Proof/Machine/Affine.lean ====
section
/-! DEFINITION. The affine-map algebra and the tables built with it (40_variant_and_tables.md sections 1 and 3), the two
jumps (42_seed_stepper.md R182, R185) and the index inverter (43_index_inverter.md R210, R211). Everything is modulo
`2^w` (00_scope.md R7). -/

namespace Sys2Proof.Machine

/-! ## Maps -/

/-- `Apply((A, B), S) = A*S + B` (R120). -/
def AffineMap.apply {w : Nat} (m : AffineMap w) (s : BitVec w) : BitVec w := m.a * s + m.b

/-- `Compose(m1, m2)`: `m1` first, `m2` second (R121). -/
def AffineMap.compose {w : Nat} (m1 m2 : AffineMap w) : AffineMap w :=
  { a := m2.a * m1.a, b := m2.a * m1.b + m2.b }

/-- `Square((A, B)) = (A*A, B*(1 + A))`, both from the un-squared `A` (R122, 70_reset_and_hazards.md R298). -/
def AffineMap.square {w : Nat} (m : AffineMap w) : AffineMap w := { a := m.a * m.a, b := m.b * (1 + m.a) }

/-- `ID = (1, 0)` (R123). -/
def AffineMap.ident (w : Nat) : AffineMap w := { a := 1, b := 0 }

/-- The base map of the forward direction: `(P.MUL, P.ADD)` (10_state.md R25). -/
def ParamSet.forward {w : Nat} (p : ParamSet w) : AffineMap w := { a := p.mul, b := p.add }

/-- The base map of the backward direction: `(P.INVMUL, P.INVADD)` (10_state.md R25). -/
def ParamSet.backward {w : Nat} (p : ParamSet w) : AffineMap w := { a := p.invMul, b := p.invAdd }

/-- The base map of a direction. -/
def ParamSet.base {w : Nat} (p : ParamSet w) : Dir → AffineMap w
  | .forward => p.forward
  | .backward => p.backward

/-- The table of a direction. -/
def BothWays.get {α : Type} (t : BothWays α) : Dir → α
  | .forward => t.fwd
  | .backward => t.bwd

/-! ## Tables -/

/-- The recurrence of R127: `n` maps, the first given, each next one the square of the one before. -/
def squarings {w : Nat} (m : AffineMap w) : Nat → List (AffineMap w)
  | 0 => []
  | n + 1 => m :: squarings m.square n

theorem squarings_length {w : Nat} (m : AffineMap w) (n : Nat) : (squarings m n).length = n := by
  induction n generalizing m with
  | zero => rfl
  | succ n ih => simp [squarings, ih]

/-- `DoublingTable(base)` (R127). -/
def doublingTable {w : Nat} (base : AffineMap w) : DoublingTable w :=
  ⟨(squarings base w).toArray, by simp [squarings_length]⟩

/-- `R[p][v]` of `RadixTable(T)` (R128): from the identity, the entries `8p + j` of `T` for the bits `j` of `v` that are
1, ascending. -/
def radixEntry {w : Nat} (t : DoublingTable w) (p : Fin (w / 8)) (v : BitVec 8) : AffineMap w :=
  (List.finRange 8).foldl (fun m j => if v.getLsbD j.val then m.compose (t[8 * p.val + j.val]'(by omega)) else m)
    (AffineMap.ident w)

/-- One byte position of `RadixTable(T)` (R128). -/
def radixRow {w : Nat} (t : DoublingTable w) (p : Fin (w / 8)) : Vector (AffineMap w) 256 :=
  ⟨((List.range 256).map fun v => radixEntry t p (BitVec.ofNat 8 v)).toArray, by simp⟩

/-- `RadixTable(T)` (R128). -/
def radixTable {w : Nat} (t : DoublingTable w) : RadixTable w :=
  ⟨((List.finRange (w / 8)).map (radixRow t)).toArray, by simp⟩

/-- The doubling tables of a parameter set, both directions (R129, R132). -/
def doublingTables {w : Nat} (p : ParamSet w) : BothWays (DoublingTable w) :=
  { fwd := doublingTable p.forward, bwd := doublingTable p.backward }

/-- The radix tables of a pair of doubling tables (R129, R133). -/
def radixTables {w : Nat} (t : BothWays (DoublingTable w)) : BothWays (RadixTable w) :=
  { fwd := radixTable t.fwd, bwd := radixTable t.bwd }

/-! ## Jumps -/

/-- `JumpD(T, S, n)`: the entries of the set bits of `n`, ascending (42_seed_stepper.md R182). -/
def jumpD {w : Nat} (t : DoublingTable w) (s n : BitVec w) : BitVec w :=
  (List.finRange w).foldl (fun s i => if n.getLsbD i.val then t[i].apply s else s) s

/-- Byte `p` of a count: `n[8p+7:8p]` (20_memory.md R60, 42_seed_stepper.md R185). -/
def byteOf {w : Nat} (n : BitVec w) (p : Nat) : BitVec 8 := n.extractLsb' (8 * p) 8

/-- `JumpR(R, S, n)`: one entry for each byte of `n`, ascending (42_seed_stepper.md R185). -/
def jumpR {w : Nat} (r : RadixTable w) (s n : BitVec w) : BitVec w :=
  (List.finRange (w / 8)).foldl (fun s p => (r[p][(byteOf n p.val).toNat]'(byteOf n p.val).isLt).apply s) s

/-! ## Index inversion -/

/-- The recursive definition `Invert(s, A, B, order)` (43_index_inverter.md R210), the new increment halved as
90_conflicts.md C1 resolves. The block runs the iterative form below. -/
def invert {w : Nat} (s a b : BitVec w) : Nat → BitVec w
  | 0 => 0
  | order + 1 =>
    if s.getLsbD 0 then 2 * invert ((a * s + b) >>> 1) (a * a) ((b * (1 + a)) >>> 1) order - 1
    else 2 * invert (s >>> 1) (a * a) ((b * (1 + a)) >>> 1) order

/-- The values `InvertIter` works on: the seed, the result bits `T`, the multiplier, the increment
(43_index_inverter.md R211). -/
structure InverterRegs (w : Nat) where
  s : BitVec w
  t : BitVec w
  a : BitVec w
  b : BitVec w
deriving DecidableEq, Repr

/-- Round `j` of `InvertIter` (R211). -/
def invertRound {w : Nat} (r : InverterRegs w) (j : Nat) : InverterRegs w where
  s := if r.s.getLsbD 0 then (r.a * r.s + r.b) >>> 1 else r.s >>> 1
  t := if r.s.getLsbD 0 then r.t + BitVec.twoPow w j else r.t
  a := r.a * r.a
  b := (r.b * (1 + r.a)) >>> 1

/-- `InvertIter(S, A, B)`: `W` rounds, then `-T` (R211). -/
def invertIter {w : Nat} (s a b : BitVec w) : BitVec w :=
  -((List.range w).foldl invertRound { s := s, t := 0, a := a, b := b }).t

/-- `GetIndex(seed)` of a parameter set, from its forward constants (43_index_inverter.md R213). -/
def getIndex {w : Nat} (p : ParamSet w) (s : BitVec w) : BitVec w := invertIter s p.mul p.add

end Sys2Proof.Machine
end

