-- ==== Sys2Proof/Machine/Operands.lean ====
section
/-! DEFINITION. Operands: reading and writing data registers and map pairs (00_scope.md R8; 10_state.md R20, R21). No
register is hardwired. -/

namespace Sys2Proof.Machine

/-- `X[r]`. -/
def Block.getX {w : Nat} (b : Block w) (r : RegNum) : BitVec w := b.x[r]

/-- `X[r] <- v`. -/
def Block.setX {w : Nat} (b : Block w) (r : RegNum) (v : BitVec w) : Block w := { b with x := b.x.set r.val v }

/-- The register `x(2k)`, the multiplier of map `k` (R21). -/
def mulReg (k : MapNum) : RegNum := ⟨2 * k.val, by omega⟩

/-- The register `x(2k+1)`, the increment of map `k` (R21). -/
def addReg (k : MapNum) : RegNum := ⟨2 * k.val + 1, by omega⟩

/-- `MAP[k]` (R21). -/
def Block.getMap {w : Nat} (b : Block w) (k : MapNum) : AffineMap w :=
  { a := b.getX (mulReg k), b := b.getX (addReg k) }

/-- `MAP[k] <- m` (R21). -/
def Block.setMap {w : Nat} (b : Block w) (k : MapNum) (m : AffineMap w) : Block w :=
  (b.setX (mulReg k) m.a).setX (addReg k) m.b

end Sys2Proof.Machine
end

