-- ==== Sys2Proof/Machine/Registry.lean ====
section
/-! DEFINITION. The variant registry (40_variant_and_tables.md section 2). -/

namespace Sys2Proof.Machine

/-- The registry row of a variant code (R124). Row 3 holds the instance's own literals and exists only when
`REVSTD_PRESENT = 1` (R125, log 11). Row 4's backward constants are R126's (90_conflicts.md C2). -/
def variantRow (c : Config) : Nat → Option VariantRow
  | 0 => some { width := .w32, mul := 0x41C64E6D, add := 0x00006073, invMul := 0xEEB9EB65, invAdd := 0x0A3561A1 }
  | 1 => some { width := .w32, mul := 0x000343FD, add := 0x00269EC3, invMul := 0xB9B33155, invAdd := 0xA170F641 }
  | 2 => some { width := .w32, mul := 0x41C64E6D, add := 0x00003039, invMul := 0xEEB9EB65, invAdd := 0xFC77A683 }
  | 3 =>
    if c.revstdPresent then
      some
        { width := .w32, mul := c.revstdMul.setWidth 64, add := c.revstdAdd.setWidth 64
          invMul := c.revstdInvMul.setWidth 64, invAdd := c.revstdInvAdd.setWidth 64 }
    else none
  | 4 =>
    some
      { width := .w64, mul := 0x5D588B656C078965, add := 0x0000000000269EC3
        invMul := 0xDEDCEDAE9638806D, invAdd := 0x9B1AE6E9A384E6F9 }
  | _ + 5 => none

/-- A row's parameter set at a width. -/
def VariantRow.params (r : VariantRow) (w : Nat) : ParamSet w where
  mul := r.mul.setWidth w
  add := r.add.setWidth w
  invMul := r.invMul.setWidth w
  invAdd := r.invAdd.setWidth w

/-- The parameter set of a code the instance supports: the row exists and its width is the instance's
(R124, 00_scope.md R5). -/
def supportedParams (c : Config) (code : Nat) : Option (ParamSet c.width.bits) :=
  match variantRow c code with
  | some r => if r.width = c.width then some (r.params c.width.bits) else none
  | none => none

end Sys2Proof.Machine
end

