-- ==== Sys2Proof/Machine/Ops.lean ====
section
/-! DEFINITION. The operations the meanings share: recording a fault and clearing it, the state checks, building tables
on demand, completing a command. -/

namespace Sys2Proof.Machine

/-! ## Faults (60_exceptions.md) -/

/-- Fault entry, `raise Fault(c)` in command word `w`: `FAULT <- 1; CAUSE <- c; FCMD <- w` and nothing else
(R258, R259). -/
def Block.raise {w : Nat} (b : Block w) (c : Cause) (word : Command) : Block w :=
  { b with fault := some c, fcmd := word }

/-- Fault return: `FAULT <- 0; CAUSE <- 0`, FCMD unchanged (R261). -/
def Block.clearFault {w : Nat} (b : Block w) : Block w := { b with fault := none }

/-- The check of every command that reads the parameter set or a table: NO_VARIANT while `PVALID = 0` (R255). The word
that goes to FCMD is the command's own: a word that decodes to a command is that command's encoding (log 7). -/
def Block.needParams {w : Nat} (b : Block w) (i : Instr) (effect : Block w) : Block w :=
  if b.pvalid then effect else b.raise .noVariant (encode i)

/-- The check of RTB, JRF, JRB and MRT: ILLEGAL_OPCODE when `RT_PRESENT = 0` (R251). -/
def Block.needRadix {w : Nat} (b : Block w) (c : Config) (i : Instr) (effect : Block w) : Block w :=
  if c.rtPresent then effect else b.raise .illegalOpcode (encode i)

/-! ## Tables on demand (40_variant_and_tables.md R129) -/

/-- Build the doubling tables of the parameter set: the action of DTB (R132), `DTVALID <- 1`. -/
def Block.buildDT {w : Nat} (b : Block w) : Block w := { b with dt := some (doublingTables b.p) }

/-- `EnsureDT()` (R129). -/
def Block.ensureDT {w : Nat} (b : Block w) : Block w :=
  match b.dt with
  | some _ => b
  | none => b.buildDT

/-- The doubling tables a command reads after `EnsureDT()`: the stored ones, or the ones it builds. -/
def Block.doubling {w : Nat} (b : Block w) : BothWays (DoublingTable w) := b.dt.getD (doublingTables b.p)

/-- Build the radix tables from the doubling tables, building those first if they are invalid: the action of RTB
(R133), `RTVALID <- 1`. -/
def Block.buildRT {w : Nat} (b : Block w) : Block w := { b.ensureDT with rt := some (radixTables b.doubling) }

/-- `EnsureRT()` (R129). -/
def Block.ensureRT {w : Nat} (b : Block w) : Block w :=
  match b.rt with
  | some _ => b
  | none => b.buildRT

/-- The radix tables a command reads after `EnsureRT()`: the stored ones, or the ones it builds. -/
def Block.radix {w : Nat} (b : Block w) : BothWays (RadixTable w) := b.rt.getD (radixTables b.doubling)

/-! ## Completing a command -/

/-- A command's result: the block after it; the instance and the host's side are not a command's to change
(44_register_transfer.md R235). -/
def State.commit (s : State) (b : Block s.cfg.width.bits) : Host.Outcome State Fault Refusal := .next { s with blk := b }

/-- Record a fault as the whole effect of a command word (44_register_transfer.md R235). -/
def State.raise (s : State) (c : Cause) (word : Command) : Host.Outcome State Fault Refusal :=
  s.commit (s.blk.raise c word)

end Sys2Proof.Machine
end

