-- ==== Sys2Proof/Machine/Composer.lean ====
section
/-! DEFINITION. The affine map composer commands MID, MBASE, MDT, MRT, MCMP, MSQ, MAPP
(41_affine_map_composer.md R150 to R156). -/

namespace Sys2Proof.Machine

/-- MID md: `MAP[md] <- (1, 0)` (R150). -/
def execMid (md : MapNum) (s : State) : Host.Outcome State Fault Refusal :=
  s.commit (s.blk.setMap md (AffineMap.ident _))

/-- MBASE md, d: the base map of direction `d` (R151). -/
def execMbase (md : MapNum) (d : Dir) (s : State) : Host.Outcome State Fault Refusal :=
  s.commit (s.blk.needParams (.mbase md d) (s.blk.setMap md (s.blk.p.base d)))

/-- MDT md, d, i: `DT[d][i]`; INDEX_RANGE for `i >= W` before NO_VARIANT (R152, 60_exceptions.md R257). -/
def execMdt (md : MapNum) (d : Dir) (i : BitVec 7) (s : State) : Host.Outcome State Fault Refusal :=
  if h : i.toNat < s.cfg.width.bits then
    s.commit (s.blk.needParams (.mdt md d i) (s.blk.ensureDT.setMap md ((s.blk.doubling.get d)[i.toNat]'h)))
  else s.raise .indexRange (encode (.mdt md d i))

/-- MRT md, d, p, v: `RT[d][p][v]`; ILLEGAL_OPCODE without a radix table, then INDEX_RANGE for `p >= W/8`, then
NO_VARIANT (R153, 60_exceptions.md R257). -/
def execMrt (md : MapNum) (d : Dir) (p : BitVec 3) (v : BitVec 8) (s : State) : Host.Outcome State Fault Refusal :=
  s.commit (s.blk.needRadix s.cfg (.mrt md d p v)
    (if h : p.toNat < s.cfg.width.bits / 8 then
      s.blk.needParams (.mrt md d p v)
        (s.blk.ensureRT.setMap md (((s.blk.radix.get d)[p.toNat]'h)[v.toNat]'v.isLt))
    else s.blk.raise .indexRange (encode (.mrt md d p v))))

/-- MCMP md, ms1, ms2: `ms1` applied first and `ms2` second (R154). -/
def execMcmp (md ms1 ms2 : MapNum) (s : State) : Host.Outcome State Fault Refusal :=
  s.commit (s.blk.setMap md ((s.blk.getMap ms1).compose (s.blk.getMap ms2)))

/-- MSQ md, ms1: a map applied twice (R155). -/
def execMsq (md ms1 : MapNum) (s : State) : Host.Outcome State Fault Refusal :=
  s.commit (s.blk.setMap md (s.blk.getMap ms1).square)

/-- MAPP xd, ms1, xs: a map applied to a seed (R156). -/
def execMapp (xd : RegNum) (ms1 : MapNum) (xs : RegNum) (s : State) : Host.Outcome State Fault Refusal :=
  s.commit (s.blk.setX xd ((s.blk.getMap ms1).apply (s.blk.getX xs)))

end Sys2Proof.Machine
end

