-- ==== Sys2Proof/Machine/Inverter.lean ====
section
/-! DEFINITION. The index inverter commands GIX and GIXR (43_index_inverter.md R213, R214). They read no table. -/

namespace Sys2Proof.Machine

/-- GIX xd, xs: `X[xd] <- InvertIter(X[xs], P.MUL, P.ADD)` (R213). -/
def execGix (xd xs : RegNum) (s : State) : Host.Outcome State Fault Refusal :=
  s.commit (s.blk.needParams (.gix xd xs) (s.blk.setX xd (getIndex s.blk.p (s.blk.getX xs))))

/-- GIXR xd, xs, xo: the difference of the two indices (R214). -/
def execGixr (xd xs xo : RegNum) (s : State) : Host.Outcome State Fault Refusal :=
  s.commit (s.blk.needParams (.gixr xd xs xo)
    (s.blk.setX xd (getIndex s.blk.p (s.blk.getX xs) - getIndex s.blk.p (s.blk.getX xo))))

end Sys2Proof.Machine
end

