-- ==== Sys2Proof/Machine/Setup.lean ====
section
/-! DEFINITION. The setup commands NOP, VSEL, DTB, RTB (40_variant_and_tables.md R130 to R133). -/

namespace Sys2Proof.Machine

/-- NOP: no effect (R130). -/
def execNop (s : State) : Host.Outcome State Fault Refusal := s.commit s.blk

/-- The block after a variant is selected: its row in `P`, PVALID and VAR set, both tables invalid (R131). -/
def Block.select {w : Nat} (b : Block w) (p : ParamSet w) (code : BitVec 12) : Block w :=
  { b with p := p, pvalid := true, var := code.setWidth 3, dt := none, rt := none }

/-- VSEL code: ILLEGAL_VARIANT for an unsupported code, and then nothing else changes (R131, R254). -/
def execVsel (code : BitVec 12) (s : State) : Host.Outcome State Fault Refusal :=
  match supportedParams s.cfg code.toNat with
  | some p => s.commit (s.blk.select p code)
  | none => s.raise .illegalVariant (encode (.vsel code))

/-- DTB: build the doubling tables, valid or not (R132). -/
def execDtb (s : State) : Host.Outcome State Fault Refusal := s.commit (s.blk.needParams .dtb s.blk.buildDT)

/-- RTB: build the radix tables, and the doubling tables first if they are invalid (R133). -/
def execRtb (s : State) : Host.Outcome State Fault Refusal :=
  s.commit (s.blk.needRadix s.cfg .rtb (s.blk.needParams .rtb s.blk.buildRT))

end Sys2Proof.Machine
end

