-- ==== Sys2Proof/Machine/Stepper.lean ====
section
/-! DEFINITION. The seed stepper commands STF, STB, JDF, JDB, JRF, JRB (42_seed_stepper.md R180 to R187). Each reads
its operands before `EnsureDT` or `EnsureRT` and before it writes (10_state.md R22). -/

namespace Sys2Proof.Machine

/-- STF xd, xs: `X[xd] <- P.MUL * X[xs] + P.ADD` (R180). -/
def execStf (xd xs : RegNum) (s : State) : Host.Outcome State Fault Refusal :=
  s.commit (s.blk.needParams (.stf xd xs) (s.blk.setX xd (s.blk.p.forward.apply (s.blk.getX xs))))

/-- STB xd, xs: `X[xd] <- P.INVMUL * X[xs] + P.INVADD` (R181). -/
def execStb (xd xs : RegNum) (s : State) : Host.Outcome State Fault Refusal :=
  s.commit (s.blk.needParams (.stb xd xs) (s.blk.setX xd (s.blk.p.backward.apply (s.blk.getX xs))))

/-- A doubling jump in one direction: `EnsureDT`, then `X[xd] <- JumpD(DT[d], X[xs], X[xn])` (R183, R184). -/
def Block.jumpByDoubling {w : Nat} (b : Block w) (d : Dir) (xd xs xn : RegNum) : Block w :=
  b.ensureDT.setX xd (jumpD (b.doubling.get d) (b.getX xs) (b.getX xn))

/-- A radix jump in one direction: `EnsureRT`, then `X[xd] <- JumpR(RT[d], X[xs], X[xn])` (R186, R187). -/
def Block.jumpByRadix {w : Nat} (b : Block w) (d : Dir) (xd xs xn : RegNum) : Block w :=
  b.ensureRT.setX xd (jumpR (b.radix.get d) (b.getX xs) (b.getX xn))

/-- JDF xd, xs, xn (R183). -/
def execJdf (xd xs xn : RegNum) (s : State) : Host.Outcome State Fault Refusal :=
  s.commit (s.blk.needParams (.jdf xd xs xn) (s.blk.jumpByDoubling .forward xd xs xn))

/-- JDB xd, xs, xn (R184). -/
def execJdb (xd xs xn : RegNum) (s : State) : Host.Outcome State Fault Refusal :=
  s.commit (s.blk.needParams (.jdb xd xs xn) (s.blk.jumpByDoubling .backward xd xs xn))

/-- JRF xd, xs, xn (R186). -/
def execJrf (xd xs xn : RegNum) (s : State) : Host.Outcome State Fault Refusal :=
  s.commit (s.blk.needRadix s.cfg (.jrf xd xs xn)
    (s.blk.needParams (.jrf xd xs xn) (s.blk.jumpByRadix .forward xd xs xn)))

/-- JRB xd, xs, xn (R187). -/
def execJrb (xd xs xn : RegNum) (s : State) : Host.Outcome State Fault Refusal :=
  s.commit (s.blk.needRadix s.cfg (.jrb xd xs xn)
    (s.blk.needParams (.jrb xd xs xn) (s.blk.jumpByRadix .backward xd xs xn)))

end Sys2Proof.Machine
end

