-- ==== Sys2Proof/Machine/Transfer.lean ====
section
/-! DEFINITION. The transfer commands LDX, RDX, MOV (44_register_transfer.md R230 to R232). -/

namespace Sys2Proof.Machine

/-- LDX xd: `X[xd] <- DATA_IN` (R230). -/
def execLdx (xd : RegNum) (s : State) : Host.Outcome State Fault Refusal := s.commit (s.blk.setX xd s.blk.dataIn)

/-- RDX xs: `DATA_OUT <- X[xs]` (R231). -/
def execRdx (xs : RegNum) (s : State) : Host.Outcome State Fault Refusal :=
  s.commit { s.blk with dataOut := s.blk.getX xs }

/-- MOV xd, xs: `X[xd] <- X[xs]` (R232). -/
def execMov (xd xs : RegNum) (s : State) : Host.Outcome State Fault Refusal :=
  s.commit (s.blk.setX xd (s.blk.getX xs))

end Sys2Proof.Machine
end

