-- ==== Sys2Proof/Machine/Dispatch.lean ====
section
/-! DEFINITION. One arm for each command: the meaning its rule gives it. -/

namespace Sys2Proof.Machine

def exec (i : Instr) (s : State) : Host.Outcome State Fault Refusal :=
  match i with
  | .nop => Sys2Proof.Machine.execNop s
  | .vsel code => Sys2Proof.Machine.execVsel code s
  | .dtb => Sys2Proof.Machine.execDtb s
  | .rtb => Sys2Proof.Machine.execRtb s
  | .ldx xd => Sys2Proof.Machine.execLdx xd s
  | .rdx xs => Sys2Proof.Machine.execRdx xs s
  | .mov xd xs => Sys2Proof.Machine.execMov xd xs s
  | .stf xd xs => Sys2Proof.Machine.execStf xd xs s
  | .stb xd xs => Sys2Proof.Machine.execStb xd xs s
  | .jdf xd xs xn => Sys2Proof.Machine.execJdf xd xs xn s
  | .jdb xd xs xn => Sys2Proof.Machine.execJdb xd xs xn s
  | .jrf xd xs xn => Sys2Proof.Machine.execJrf xd xs xn s
  | .jrb xd xs xn => Sys2Proof.Machine.execJrb xd xs xn s
  | .gix xd xs => Sys2Proof.Machine.execGix xd xs s
  | .gixr xd xs xo => Sys2Proof.Machine.execGixr xd xs xo s
  | .mcmp md ms1 ms2 => Sys2Proof.Machine.execMcmp md ms1 ms2 s
  | .mapp xd ms1 xs => Sys2Proof.Machine.execMapp xd ms1 xs s
  | .msq md ms1 => Sys2Proof.Machine.execMsq md ms1 s
  | .mbase md d => Sys2Proof.Machine.execMbase md d s
  | .mdt md d k => Sys2Proof.Machine.execMdt md d k s
  | .mrt md d p v => Sys2Proof.Machine.execMrt md d p v s
  | .mid md => Sys2Proof.Machine.execMid md s

end Sys2Proof.Machine
end

