-- ==== Sys2Proof/Machine/Flags.lean ====
section
/-! DEFINITION. The status bits and the two computed host registers, STATUS and CONFIG. There are no condition codes
(10_state.md R38). -/

namespace Sys2Proof.Machine

/-- The code of a fault cause (60_exceptions.md R250). -/
def causeCode : Cause → BitVec 4
  | .illegalOpcode => 1
  | .illegalOperand => 2
  | .illegalVariant => 3
  | .noVariant => 4
  | .indexRange => 5

/-- `STATUS.FAULT` (10_state.md R33). -/
def Block.faultBit {w : Nat} (b : Block w) : Bool := b.fault.isSome

/-- `STATUS.CAUSE`, 0 while `FAULT = 0` (R33). -/
def Block.causeField {w : Nat} (b : Block w) : BitVec 4 :=
  match b.fault with
  | none => 0
  | some c => causeCode c

/-- `DTVALID` (R25). -/
def Block.dtValid {w : Nat} (b : Block w) : Bool := b.dt.isSome

/-- `RTVALID` (R26). -/
def Block.rtValid {w : Nat} (b : Block w) : Bool := b.rt.isSome

/-- `STATUS.VAR`, 0 while `PVALID = 0` (R33). -/
def Block.varField {w : Nat} (b : Block w) : BitVec 3 := if b.pvalid then b.var else 0

/-- STATUS: FAULT 0, CAUSE 7:4, PVALID 8, DTVALID 9, RTVALID 10, VAR 14:12, every other bit 0 (R33). -/
def Block.status {w : Nat} (b : Block w) : BitVec 32 :=
  (0 : BitVec 17) ++ b.varField ++ (0 : BitVec 1) ++ BitVec.ofBool b.rtValid ++ BitVec.ofBool b.dtValid ++
    BitVec.ofBool b.pvalid ++ b.causeField ++ (0 : BitVec 3) ++ BitVec.ofBool b.faultBit

/-- CONFIG.WIDTH (R36). -/
def widthField : Width → BitVec 8
  | .w32 => 0x20
  | .w64 => 0x40

/-- CONFIG.VARMASK (R36). -/
def varMask (c : Config) : BitVec 5 :=
  match c.width with
  | .w32 => if c.revstdPresent then 0b01111 else 0b00111
  | .w64 => 0b10000

/-- CONFIG: WIDTH 7:0, RTP 8, VARMASK 20:16, every other bit 0 (R36). -/
def configWord (c : Config) : BitVec 32 :=
  (0 : BitVec 11) ++ varMask c ++ (0 : BitVec 7) ++ BitVec.ofBool c.rtPresent ++ widthField c.width

end Sys2Proof.Machine
end

