-- ==== Sys2Proof/Machine/HostPort.lean ====
section
/-! DEFINITION. The host operations: the block's only transitions besides reset (44_register_transfer.md R233 to R236;
20_memory.md R60 to R63). -/

namespace Sys2Proof.Machine

/-! ## Addressing -/

/-- The register of a host register number; 6 to 15 are reserved (10_state.md R30, 20_memory.md R63). -/
def hostRegOf (r : Fin 16) : Option HostReg :=
  match r.val with
  | 0 => some .cmd
  | 1 => some .dataIn
  | 2 => some .dataOut
  | 3 => some .status
  | 4 => some .fcmd
  | 5 => some .config
  | _ => none

/-- The number of a host register (10_state.md R30). -/
def HostReg.number : HostReg → Fin 16
  | .cmd => 0
  | .dataIn => 1
  | .dataOut => 2
  | .status => 3
  | .fcmd => 4
  | .config => 5

/-- The register whose slot's base, `8*r`, a byte offset is (20_memory.md R60, R61). -/
def slotReg (o : Fin 128) : Option HostReg := if o.val % 8 = 0 then hostRegOf ⟨o.val / 8, by omega⟩ else none

/-- The offset in the window of a byte address of the platform's map, the window being at `AMC_BASE` (R60, R63); none
for an address outside the window, which is no access of the block. -/
def windowOffset (c : Config) (a : Nat) : Option (Fin 128) :=
  if h : c.amcBase ≤ a ∧ a < c.amcBase + 128 then some ⟨a - c.amcBase, by omega⟩ else none

/-- The width of a host register: 32 for CMD, STATUS, FCMD and CONFIG, `W` for DATA_IN and DATA_OUT
(20_memory.md R61). -/
def HostReg.bits (w : Nat) : HostReg → Nat
  | .cmd => 32
  | .dataIn => w
  | .dataOut => w
  | .status => 32
  | .fcmd => 32
  | .config => 32

/-! ## Byte lanes -/

/-- The bytes of a value as they lie in a slot: little-endian, the least-significant byte at the lowest address
(20_memory.md R60). -/
def HostValue.slotBytes (v : HostValue) : List Byte := (List.range (v.bits / 8)).map (byteOf v.value)

/-- The value of the bytes of a slot, the byte at the lowest address least significant (20_memory.md R60). -/
def slotValue (n : Nat) : List Byte → BitVec n
  | [] => 0
  | b :: rest => (slotValue n rest <<< 8) ||| b.setWidth n

/-! ## Answers -/

/-- The state with the host port's answer. -/
def State.answer (s : State) (r : HostResponse) : State := { s with response := r }

/-- A performed write: the block after it, answered as accepted. -/
def State.accept (s : State) (b : Block s.cfg.width.bits) : State := { s with blk := b, response := .accepted }

/-- What the host sees of an answer; the platform's parameters say what it sees of an access the block did not perform
(60_exceptions.md R262, 70_reset_and_hazards.md R292). -/
def hostView (c : Config) : HostResponse → HostView
  | .silent => .nothing
  | .accepted => .done
  | .value v => .value v
  | .bytes bytes => .bytes bytes
  | .busError => .platform c.busErrorResponse
  | .interruptedByReset => .platform c.resetDuringAccessResponse

/-! ## Commands -/

/-- `Execute(w)`: a decoding fault is recorded; otherwise the command's rule runs (44_register_transfer.md R235). -/
def execute (w : Command) (s : State) : Host.Outcome State Fault Refusal :=
  match decode s.cfg w with
  | .error c => s.raise c w
  | .ok i => exec i s

/-- A CMD write is answered when its command has completed (20_memory.md R65). -/
def answerCommand : Host.Outcome State Fault Refusal → Host.Outcome State Fault Refusal
  | .next s => .next (s.answer .accepted)
  | .fault f => .fault f
  | .refused r => .refused r

/-- A write of `w` to CMD: discarded while `FAULT = 1` (60_exceptions.md R260), executed otherwise
(44_register_transfer.md R234). -/
def writeCmd (w : Command) (s : State) : Host.Outcome State Fault Refusal :=
  if s.blk.faultBit then .next (s.accept s.blk) else answerCommand (execute w s)

/-! ## Accesses -/

/-- `hwrite` of an assigned register (44_register_transfer.md R234). The value has the register's width when this is
called; the conversion to that width then changes nothing. -/
def writeReg (r : HostReg) {n : Nat} (v : BitVec n) (s : State) : Host.Outcome State Fault Refusal :=
  match r with
  | .cmd => writeCmd (v.setWidth 32) s
  | .dataIn => .next (s.accept { s.blk with dataIn := v.setWidth s.cfg.width.bits })
  | .dataOut => .next (s.accept s.blk)
  | .status => .next (s.accept (if v.getLsbD 0 then s.blk.clearFault else s.blk))
  | .fcmd => .next (s.accept s.blk)
  | .config => .next (s.accept s.blk)

/-- What `hread` of an assigned register returns (44_register_transfer.md R236). -/
def readReg (r : HostReg) (s : State) : HostValue :=
  match r with
  | .cmd => { bits := 32, value := 0 }
  | .dataIn => { bits := s.cfg.width.bits, value := s.blk.dataIn }
  | .dataOut => { bits := s.cfg.width.bits, value := s.blk.dataOut }
  | .status => { bits := 32, value := s.blk.status }
  | .fcmd => { bits := 32, value := s.blk.fcmd }
  | .config => { bits := 32, value := configWord s.cfg }

/-- The register an access reaches, if it is an assigned one and the access has exactly its width; anything else is a
bus error
(20_memory.md R61, 60_exceptions.md R262). -/
def wholeReg (w : Nat) (reached : Option HostReg) (bits : Nat) : Option HostReg :=
  match reached with
  | some r => if bits = r.bits w then some r else none
  | none => none

/-- One host access (44_register_transfer.md R233): done, done with a fault recorded, or a bus error, which changes no
state of the block (60_exceptions.md R262). -/
def performAccess (a : HostAccess) (s : State) : Host.Outcome State Fault Refusal :=
  match a with
  | .read r bits =>
    match wholeReg s.cfg.width.bits (hostRegOf r) bits with
    | some r => .next (s.answer (.value (readReg r s)))
    | none => .next (s.answer .busError)
  | .write r bits v =>
    match wholeReg s.cfg.width.bits (hostRegOf r) bits with
    | some r => writeReg r v s
    | none => .next (s.answer .busError)
  | .readBytes o count =>
    match wholeReg s.cfg.width.bits (slotReg o) (8 * count) with
    | some r => .next (s.answer (.bytes (readReg r s).slotBytes))
    | none => .next (s.answer .busError)
  | .writeBytes o bytes =>
    match wholeReg s.cfg.width.bits (slotReg o) (8 * bytes.length) with
    | some r => writeReg r (slotValue (8 * bytes.length) bytes) s
    | none => .next (s.answer .busError)

/-- Reset: every piece of the block's state takes its reset value (70_reset_and_hazards.md R290); the instance and the
inputs still to come stay. -/
def State.resetBlock (s : State) (r : HostResponse) : State :=
  { s with blk := Block.reset s.cfg.width.bits, response := r }

/-- One input. An access interrupted by reset is never performed (70_reset_and_hazards.md R292). Which access "the held
host access" of R292 is, the one under way (an abandoned CMD write) or one stalled behind it (20_memory.md R65), the
spec leaves open. DESIGN CHOICE, log 16: the access of `resetDuring` is answered as interrupted, and the inputs behind
it stay pending, each performed on the reset block unless it is itself given as `resetDuring`. -/
def performInput (i : HostInput) (s : State) : Host.Outcome State Fault Refusal :=
  match i with
  | .access a => performAccess a s
  | .reset => .next (s.resetBlock .silent)
  | .resetDuring _ => .next (s.resetBlock .interruptedByReset)

/-- The oldest input is performed; with none, the block is idle and keeps all state (60_exceptions.md R269). -/
def performNext (s : State) : Host.Outcome State Fault Refusal :=
  match s.pending with
  | [] => .next s
  | i :: rest => performInput i { s with pending := rest }

/-- The host's write of a command word to CMD. -/
def cmdWrite (w : Command) : HostInput := .access (.write 0 32 w)

end Sys2Proof.Machine
end

