-- ==== Sys2Proof/Machine/Step.lean ====
section
/-! DEFINITION. One step of the machine: one host operation (44_register_transfer.md R233). -/

namespace Sys2Proof.Machine

/-- One step: the oldest pending input. -/
def step (s : State) : Host.Outcome State Fault Refusal := performNext s

/-- `s` about to run the command word `w`: the block fetches nothing (10_state.md R37), so the word stands where the
next command comes from, at the head of the pending host accesses, as a write to CMD; and FAULT is clear, since a CMD
write is discarded otherwise (60_exceptions.md R260; log 4). -/
def State.withFetchWord (s : State) (nbits w : Nat) : State :=
  { s with
    blk := s.blk.clearFault
    pending := cmdWrite (BitVec.ofNat 32 (w % 2 ^ nbits)) :: s.pending }

end Sys2Proof.Machine
end

