-- ==== Sys2Proof/Safety.lean ====
section
/-! DEFINITION. What the claims speak of: the invariants of the block, the commands that read the parameter set, the
registers a command may write. -/

namespace Sys2Proof.Machine

/-! ## Parameter sets -/

/-- The parameter invariant (40_variant_and_tables.md R126): `mul` is odd and the backward map undoes the forward
one. -/
abbrev ParamSet.sound {w : Nat} (p : ParamSet w) : Prop :=
  p.mul.getLsbD 0 = true ∧ p.invMul * p.mul = 1 ∧ p.invMul * p.add + p.invAdd = 0

/-- The precondition of index inversion (43_index_inverter.md R212): `A mod 4 = 1` and `B` odd. -/
abbrev AffineMap.invertible {w : Nat} (m : AffineMap w) : Prop := m.a.toNat % 4 = 1 ∧ m.b.toNat % 2 = 1

/-! ## Invariants -/

/-- What the block's fields owe each other. -/
structure Block.Inv (c : Config) (b : Block c.width.bits) : Prop where
  /-- `PVALID = 1`: the parameters are the registry row of `VAR` (10_state.md R24) -/
  selected : b.pvalid = true → supportedParams c b.var.toNat = some b.p
  /-- `PVALID = 0`: `VAR` is 0 and no table is valid (10_state.md R24, R41) -/
  unselected : b.pvalid = false → b.var = 0 ∧ b.dt = none ∧ b.rt = none
  /-- `DTVALID = 1`: the doubling tables are those of the parameters (10_state.md R25) -/
  doublingOfParams : ∀ t, b.dt = some t → t = doublingTables b.p
  /-- `RTVALID = 1`: there is a radix table, `DTVALID = 1`, and the radix tables are those of `DT` (10_state.md R26) -/
  radixOfDoubling : ∀ r, b.rt = some r → c.rtPresent = true ∧ ∃ t, b.dt = some t ∧ r = radixTables t

/-- The invariant of a machine state. -/
abbrev State.Inv (s : State) : Prop := s.blk.Inv s.cfg

/-! ## Which commands read what -/

/-- The commands that read the parameter set or a table, which NO_VARIANT stops while `PVALID = 0`
(60_exceptions.md R255). -/
def readsParams : Instr → Bool
  | .dtb => true
  | .rtb => true
  | .stf _ _ => true
  | .stb _ _ => true
  | .jdf _ _ _ => true
  | .jdb _ _ _ => true
  | .jrf _ _ _ => true
  | .jrb _ _ _ => true
  | .gix _ _ => true
  | .gixr _ _ _ => true
  | .mbase _ _ => true
  | .mdt _ _ _ => true
  | .mrt _ _ _ _ => true
  | .nop => false
  | .vsel _ => false
  | .ldx _ => false
  | .rdx _ => false
  | .mov _ _ => false
  | .mcmp _ _ _ => false
  | .mapp _ _ _ => false
  | .msq _ _ => false
  | .mid _ => false

/-- The commands that build or read a table: with VSEL, the only writers of `DTVALID` and `RTVALID`
(10_state.md R38). -/
def usesTables : Instr → Bool
  | .dtb => true
  | .rtb => true
  | .jdf _ _ _ => true
  | .jdb _ _ _ => true
  | .jrf _ _ _ => true
  | .jrb _ _ _ => true
  | .mdt _ _ _ => true
  | .mrt _ _ _ _ => true
  | .stf _ _ => false
  | .stb _ _ => false
  | .gix _ _ => false
  | .gixr _ _ _ => false
  | .mbase _ _ => false
  | .nop => false
  | .vsel _ => false
  | .ldx _ => false
  | .rdx _ => false
  | .mov _ _ => false
  | .mcmp _ _ _ => false
  | .mapp _ _ _ => false
  | .msq _ _ => false
  | .mid _ => false

/-- The commands that build or read the radix table: with VSEL, the only writers of `RTVALID` (10_state.md R38;
40_variant_and_tables.md R132, R133; 41_affine_map_composer.md R152, R153; 42_seed_stepper.md R183 to R187). -/
def usesRadixTable : Instr → Bool
  | .rtb => true
  | .jrf _ _ _ => true
  | .jrb _ _ _ => true
  | .mrt _ _ _ _ => true
  | .dtb => false
  | .jdf _ _ _ => false
  | .jdb _ _ _ => false
  | .mdt _ _ _ => false
  | .stf _ _ => false
  | .stb _ _ => false
  | .gix _ _ => false
  | .gixr _ _ _ => false
  | .mbase _ _ => false
  | .nop => false
  | .vsel _ => false
  | .ldx _ => false
  | .rdx _ => false
  | .mov _ _ => false
  | .mcmp _ _ _ => false
  | .mapp _ _ _ => false
  | .msq _ _ => false
  | .mid _ => false

/-- The registers a command may write: its destination, or the pair of its destination map. -/
def writesReg (r : RegNum) : Instr → Bool
  | .nop => false
  | .vsel _ => false
  | .dtb => false
  | .rtb => false
  | .ldx xd => r == xd
  | .rdx _ => false
  | .mov xd _ => r == xd
  | .stf xd _ => r == xd
  | .stb xd _ => r == xd
  | .jdf xd _ _ => r == xd
  | .jdb xd _ _ => r == xd
  | .jrf xd _ _ => r == xd
  | .jrb xd _ _ => r == xd
  | .gix xd _ => r == xd
  | .gixr xd _ _ => r == xd
  | .mcmp md _ _ => r == mulReg md || r == addReg md
  | .mapp xd _ _ => r == xd
  | .msq md _ => r == mulReg md || r == addReg md
  | .mbase md _ => r == mulReg md || r == addReg md
  | .mdt md _ _ => r == mulReg md || r == addReg md
  | .mrt md _ _ _ => r == mulReg md || r == addReg md
  | .mid md => r == mulReg md || r == addReg md

/-! ## The fault record -/

/-- The record of a fault tells the truth: FCMD holds a word that raises the cause in the block as it is
(60_exceptions.md R250 to R255, R259). -/
def Block.explains (c : Config) (b : Block c.width.bits) : Cause → Prop
  | .illegalOpcode => decode c b.fcmd = .error .illegalOpcode
  | .illegalOperand => decode c b.fcmd = .error .illegalOperand
  | .indexRange => decode c b.fcmd = .error .indexRange
  | .illegalVariant => ∃ code, decode c b.fcmd = .ok (.vsel code) ∧ supportedParams c code.toNat = none
  | .noVariant => b.pvalid = false ∧ ∃ i, decode c b.fcmd = .ok i ∧ readsParams i = true

/-- While `FAULT = 1` the record is true: the first fault's record is kept (60_exceptions.md R260), and nothing it rests
on changes until the host clears it. -/
def State.FaultRecordTrue (s : State) : Prop := ∀ cause, s.blk.fault = some cause → s.blk.explains s.cfg cause

/-- The inputs that clear a recorded fault: a reset, and a write of the whole of STATUS with bit 0 = 1, by number or at
its slot's base (60_exceptions.md R261; 70_reset_and_hazards.md R290). -/
def clearsFault : HostInput → Bool
  | .reset => true
  | .resetDuring _ => true
  | .access (.write r bits v) => r = 3 && bits = 32 && v.getLsbD 0
  | .access (.writeBytes o bytes) =>
    match bytes with
    | [b, _, _, _] => o = 24 && b.getLsbD 0
    | _ => false
  | .access (.read _ _) => false
  | .access (.readBytes _ _) => false

end Sys2Proof.Machine
end

