-- ==== Sys2Proof/Certificates/Slice0/Obligations.lean ====
section
/-! DEFINITION. The statements for the provers. A result is stated as the whole next state, `{ s with blk := … }`, so
each is also the command's completion statement and its frame: every register, status bit, parameter, table, host
register, and the host's side that the equation does not name keeps its value. The answers `accepted`, `value`, `bytes`
and `busError` of a host step are the outcomes R233 names (done, a value returned, bus error; log 5), but that a
discarded CMD write is answered `accepted` is the model's choice (log 5); `pending` is the host's list (log 3). The block has no byte-addressable memory
(20_memory.md R60), so no statement speaks of memory bytes. -/

open Sys2Proof Sys2Proof.Machine

/-! ## Encoding (30_encoding.md) -/

/-- Every command an instance has is decoded from its own word, whatever its operands. -/
def Obligations.DecodeOfEncode : Prop :=
  ∀ (c : Config) (i : Instr), i.wellFormed c = true → decode c (encode i) = .ok i

/-- A word that decodes is the word of the command it decodes to, which the instance has: no bit is dropped, and FCMD
(R259) can be given the command's encoding. -/
def Obligations.EncodeOfDecode : Prop :=
  ∀ (c : Config) (w : Command) (i : Instr), decode c w = .ok i → encode i = w ∧ i.wellFormed c = true

/-- "A word `w` is the command of a row when `w & mask = match`" (R94), on an instance that has the row and the table
position. -/
def Obligations.DecodeIsRowMatch : Prop :=
  ∀ (c : Config) (w : Command) (i : Instr),
    decode c w = .ok i ↔
      ∃ op : Op, (op.radixOnly = true → c.rtPresent = true) ∧ w &&& op.mask = op.pattern ∧
        indexOutOfRange c op w = false ∧ i = operandsOf op w

/-- The decoding faults and their order (R95, R251 to R253, R257): an absent opcode first, then a 1 in a must-be-zero
bit, then a table position the instance does not have; decoding raises no other cause. -/
def Obligations.DecodingFaultOrder : Prop :=
  ∀ (c : Config) (w : Command),
    (decode c w = .error .illegalOpcode ↔
      ∀ op : Op, op.code = w.extractLsb' 24 8 → op.radixOnly = true ∧ c.rtPresent = false) ∧
    (decode c w = .error .illegalOperand ↔
      ∃ op : Op, op.code = w.extractLsb' 24 8 ∧ (op.radixOnly = true → c.rtPresent = true) ∧
        w &&& op.mask ≠ op.pattern) ∧
    (decode c w = .error .indexRange ↔
      ∃ op : Op, op.code = w.extractLsb' 24 8 ∧ (op.radixOnly = true → c.rtPresent = true) ∧
        w &&& op.mask = op.pattern ∧
        (op = .mdt ∧ c.width.bits ≤ (w.extractLsb' 1 7).toNat ∨
          op = .mrt ∧ c.width.bits / 8 ≤ (w.extractLsb' 1 3).toNat)) ∧
    decode c w ≠ .error .illegalVariant ∧ decode c w ≠ .error .noVariant

/-- Words of the spec's own examples decode to the commands they stand for: one of every family. -/
def Obligations.ExampleWordsDecode : Prop :=
  decode Config.reference 0x01000002 = .ok (.vsel 2) ∧
  decode Config.reference 0x06710000 = .ok (.mov 7 1) ∧
  decode Config.reference 0x12312000 = .ok (.jdf 3 1 2) ∧
  decode Config.reference 0x21531000 = .ok (.gixr 5 3 1) ∧
  decode Config.reference 0x31B3A000 = .ok (.mapp 11 3 10) ∧
  decode Config.reference 0x35100FF7 = .ok (.mrt 1 .backward 3 0xFF)

/-! ## The host port (44_register_transfer.md, 20_memory.md, 60_exceptions.md) -/

/-- A step at a CMD write whose word decodes to `i`, with FAULT clear, runs `i`: the state is `exec i`'s, with the write
removed from the host's list and answered. -/
def Obligations.StepRunsDecodedCommand : Prop :=
  ∀ (s t : State) (w : Command) (rest : List HostInput) (i : Instr),
    s.pending = cmdWrite w :: rest → s.blk.fault = none → decode s.cfg w = .ok i →
    exec i { s with pending := rest } = .next t → step s = .next { t with response := .accepted }

/-- A step at a CMD write whose word does not decode records the fault and does nothing else (R235, R259). -/
def Obligations.StepRecordsDecodingFault : Prop :=
  ∀ (s : State) (w : Command) (rest : List HostInput) (c : Cause),
    s.pending = cmdWrite w :: rest → s.blk.fault = none → decode s.cfg w = .error c →
    step s = .next { s with
      pending := rest
      blk := { s.blk with fault := some c, fcmd := w }
      response := .accepted }

/-- While `FAULT = 1` a CMD write changes nothing in the block; DATA_IN and STATUS writes and reads are still performed
(R260). That the discarded write is answered `accepted` is the model's choice (DESIGN CHOICE, log 5): R260 names no
answer, and 70_reset_and_hazards.md R295 says "without any response to the write". -/
def Obligations.FaultDiscardsCommands : Prop :=
  ∀ (s : State) (rest : List HostInput) (c : Cause), s.blk.fault = some c →
    (∀ w, s.pending = cmdWrite w :: rest → step s = .next { s with pending := rest, response := .accepted }) ∧
    (∀ v, s.pending = .access (.write 1 s.cfg.width.bits v) :: rest →
      step s = .next { s with pending := rest, blk := { s.blk with dataIn := v }, response := .accepted }) ∧
    (∀ v : BitVec 32, v.getLsbD 0 = true → s.pending = .access (.write 3 32 v) :: rest →
      step s = .next { s with pending := rest, blk := { s.blk with fault := none }, response := .accepted }) ∧
    (∀ r : HostReg, s.pending = .access (.read r.number (r.bits s.cfg.width.bits)) :: rest →
      step s = .next { s with pending := rest, response := .value (readReg r s) })

/-- The host read step: each register's value, no state of the block changed; a reserved number is a bus error (R236,
R62). -/
def Obligations.HostReadStep : Prop :=
  ∀ (s : State) (rest : List HostInput),
    (s.pending = .access (.read 0 32) :: rest →
      step s = .next { s with pending := rest, response := .value { bits := 32, value := 0 } }) ∧
    (s.pending = .access (.read 1 s.cfg.width.bits) :: rest →
      step s = .next { s with pending := rest, response := .value { bits := _, value := s.blk.dataIn } }) ∧
    (s.pending = .access (.read 2 s.cfg.width.bits) :: rest →
      step s = .next { s with pending := rest, response := .value { bits := _, value := s.blk.dataOut } }) ∧
    (s.pending = .access (.read 3 32) :: rest →
      step s = .next { s with pending := rest, response := .value { bits := 32, value := s.blk.status } }) ∧
    (s.pending = .access (.read 4 32) :: rest →
      step s = .next { s with pending := rest, response := .value { bits := 32, value := s.blk.fcmd } }) ∧
    (s.pending = .access (.read 5 32) :: rest →
      step s = .next { s with pending := rest, response := .value { bits := 32, value := configWord s.cfg } }) ∧
    (∀ (r : Fin 16) (bits : Nat), 6 ≤ r.val → s.pending = .access (.read r bits) :: rest →
      step s = .next { s with pending := rest, response := .busError })

/-- The host write step, case by case (R234): CMD executes or is discarded, DATA_IN stores, DATA_OUT, FCMD and CONFIG
ignore, STATUS clears the fault on a 1 in bit 0 and only then (R34), a reserved number is a bus error. That a discarded
CMD write is answered `accepted` is the model's choice (DESIGN CHOICE, log 5). -/
def Obligations.HostWriteStep : Prop :=
  ∀ (s : State) (rest : List HostInput),
    (∀ w : BitVec 32, s.pending = .access (.write 0 32 w) :: rest →
      (∀ c, s.blk.fault = some c → step s = .next { s with pending := rest, response := .accepted }) ∧
      (s.blk.fault = none → ∀ t, execute w { s with pending := rest } = .next t →
        step s = .next { t with response := .accepted })) ∧
    (∀ v, s.pending = .access (.write 1 s.cfg.width.bits v) :: rest →
      step s = .next { s with pending := rest, blk := { s.blk with dataIn := v }, response := .accepted }) ∧
    (∀ v, s.pending = .access (.write 2 s.cfg.width.bits v) :: rest →
      step s = .next { s with pending := rest, response := .accepted }) ∧
    (∀ v : BitVec 32, s.pending = .access (.write 3 32 v) :: rest →
      (v.getLsbD 0 = true →
        step s = .next { s with pending := rest, blk := { s.blk with fault := none }, response := .accepted }) ∧
      (v.getLsbD 0 = false → step s = .next { s with pending := rest, response := .accepted })) ∧
    (∀ v : BitVec 32,
      s.pending = .access (.write 4 32 v) :: rest ∨ s.pending = .access (.write 5 32 v) :: rest →
      step s = .next { s with pending := rest, response := .accepted }) ∧
    (∀ (r : Fin 16) (bits : Nat) (v : BitVec bits), 6 ≤ r.val →
      s.pending = .access (.write r bits v) :: rest →
      step s = .next { s with pending := rest, response := .busError })

/-- An access to a reserved number, of another width than the register's, or off a slot's base, is refused and changes
no state of the block, FAULT, CAUSE and FCMD included (R61, R262). -/
def Obligations.RefusedAccessChangesNothing : Prop :=
  ∀ (s : State) (rest : List HostInput),
    (∀ (r : Fin 16) (bits : Nat) (v : BitVec bits),
      6 ≤ r.val ∨ bits ≠ (if r = 1 ∨ r = 2 then s.cfg.width.bits else 32) →
      s.pending = .access (.read r bits) :: rest ∨ s.pending = .access (.write r bits v) :: rest →
      step s = .next { s with pending := rest, response := .busError }) ∧
    (∀ (o : Fin 128) (bytes : List Byte),
      o.val % 8 ≠ 0 ∨ 6 ≤ o.val / 8 ∨
        8 * bytes.length ≠ (if o.val / 8 = 1 ∨ o.val / 8 = 2 then s.cfg.width.bits else 32) →
      s.pending = .access (.readBytes o bytes.length) :: rest ∨ s.pending = .access (.writeBytes o bytes) :: rest →
      step s = .next { s with pending := rest, response := .busError })

/-- On a byte-addressed bus the slot at byte offset `8*r` is host register `r`, and its bytes are the value's, the
least-significant one at the lowest address (R60): writing bytes writes the value whose byte `k` is the byte at `k`, and
a read returns the bytes of what a read of the register returns, or is refused when that is. -/
def Obligations.ByteSlotIsRegister : Prop :=
  ∀ (s : State) (rest : List HostInput) (r : Fin 16) (o : Fin 128), o.val = 8 * r.val →
    (∀ (bytes : List Byte) (v : BitVec (8 * bytes.length)),
      (∀ (k : Nat) (h : k < bytes.length), bytes[k] = v.extractLsb' (8 * k) 8) →
      step { s with pending := .access (.writeBytes o bytes) :: rest } =
        step { s with pending := .access (.write r (8 * bytes.length) v) :: rest }) ∧
    (∀ (count : Nat) (v : HostValue),
      step { s with pending := .access (.read r (8 * count)) :: rest } =
        .next { s with pending := rest, response := .value v } →
      ∃ bytes : List Byte, bytes.length = count ∧
        (∀ (k : Nat) (h : k < bytes.length), bytes[k] = v.value.extractLsb' (8 * k) 8) ∧
        step { s with pending := .access (.readBytes o count) :: rest } =
          .next { s with pending := rest, response := .bytes bytes }) ∧
    (∀ count : Nat,
      step { s with pending := .access (.read r (8 * count)) :: rest } =
        .next { s with pending := rest, response := .busError } →
      step { s with pending := .access (.readBytes o count) :: rest } =
        .next { s with pending := rest, response := .busError })

/-- The machine never stops: every step answers a next state, of the same instance, with the oldest input performed and
the others kept (R65, R301, 93_implementation_defined.md). -/
def Obligations.StepAlwaysContinues : Prop :=
  ∀ s : State, ∃ t, step s = .next t ∧ t.cfg = s.cfg ∧ t.pending = s.pending.tail ∧
    ∀ (i : HostInput) (rest : List HostInput), s.pending = i :: rest →
      performInput i { s with pending := rest } = .next t

/-- With nothing issued the block is idle and keeps all state (R269, R291). -/
def Obligations.IdleKeepsAllState : Prop := ∀ s : State, s.pending = [] → step s = .next s

/-- A reset sets every piece of the block's state to its reset value whatever it was; one asserted during an access does
so whatever the access, which is never performed (R290, R292). The answers `silent` and `interruptedByReset` are the
model's (log 5), and so is that the inputs behind the interrupted access stay pending (DESIGN CHOICE, log 16). -/
def Obligations.ResetInput : Prop :=
  ∀ (s : State) (rest : List HostInput) (a : HostAccess),
    (s.pending = .reset :: rest →
      step s = .next { s with pending := rest, blk := Block.reset _, response := .silent }) ∧
    (s.pending = .resetDuring a :: rest →
      step s = .next { s with pending := rest, blk := Block.reset _, response := .interruptedByReset })

/-- The reset values of R41, on every instance; `State.reset` is the reset of some instance. An invalid table has no contents to read
(log 2). -/
def Obligations.ResetValues : Prop :=
  ∀ c : Config,
    (∀ r : RegNum, (State.resetOf c).blk.x[r] = 0) ∧
    (State.resetOf c).blk.p = { mul := 0, add := 0, invMul := 0, invAdd := 0 } ∧
    (State.resetOf c).blk.pvalid = false ∧ (State.resetOf c).blk.var = 0 ∧
    (State.resetOf c).blk.dtValid = false ∧ (State.resetOf c).blk.rtValid = false ∧
    (State.resetOf c).blk.dataIn = 0 ∧ (State.resetOf c).blk.dataOut = 0 ∧
    (State.resetOf c).blk.faultBit = false ∧ (State.resetOf c).blk.causeField = 0 ∧
    (State.resetOf c).blk.fcmd = 0 ∧ (State.resetOf c).blk.status = 0 ∧
    (State.resetOf c).cfg = c ∧ ∃ reference, State.reset = State.resetOf reference

/-! ## STATUS and CONFIG (10_state.md) -/

/-- The fields of STATUS and its reserved bits (R33). -/
def Obligations.StatusFields : Prop :=
  ∀ (w : Nat) (b : Block w),
    b.status.getLsbD 0 = b.fault.isSome ∧
    (b.fault = none → b.status.extractLsb' 4 4 = 0) ∧
    (b.fault = some .illegalOpcode → b.status.extractLsb' 4 4 = 1) ∧
    (b.fault = some .illegalOperand → b.status.extractLsb' 4 4 = 2) ∧
    (b.fault = some .illegalVariant → b.status.extractLsb' 4 4 = 3) ∧
    (b.fault = some .noVariant → b.status.extractLsb' 4 4 = 4) ∧
    (b.fault = some .indexRange → b.status.extractLsb' 4 4 = 5) ∧
    b.status.getLsbD 8 = b.pvalid ∧ b.status.getLsbD 9 = b.dt.isSome ∧ b.status.getLsbD 10 = b.rt.isSome ∧
    (b.pvalid = true → b.status.extractLsb' 12 3 = b.var) ∧
    (b.pvalid = false → b.status.extractLsb' 12 3 = 0) ∧
    ∀ k, (1 ≤ k ∧ k ≤ 3) ∨ k = 11 ∨ (15 ≤ k ∧ k ≤ 31) → b.status.getLsbD k = false

/-- The fields of CONFIG, its reserved bits and the two examples (R36); bit `16 + k` says whether VSEL accepts code
`k`. -/
def Obligations.ConfigFields : Prop :=
  ∀ c : Config,
    (configWord c).extractLsb' 0 8 = BitVec.ofNat 8 c.width.bits ∧
    (configWord c).getLsbD 8 = c.rtPresent ∧
    (∀ k, k < 5 → (configWord c).getLsbD (16 + k) = (supportedParams c k).isSome) ∧
    (∀ k, (9 ≤ k ∧ k ≤ 15) ∨ (21 ≤ k ∧ k ≤ 31) → (configWord c).getLsbD k = false) ∧
    configWord { c with width := .w32, rtPresent := true, revstdPresent := true } = 0x000F0120 ∧
    configWord { c with width := .w64, rtPresent := true } = 0x00100140

/-! ## Frames and faults of every command -/

/-- Every command answers a next state, and that state is either the old one with a fault record (and nothing else:
R258, R259), or one that keeps the fault record, DATA_IN, the instance, the host's side, every register but the command's
destinations; DATA_OUT but for RDX; the parameter set, PVALID and VAR but for VSEL; the tables but for VSEL and the
commands that use them (the radix table: RTB, JRF, JRB and MRT only), which keep a valid table unless they are asked to
rebuild it. -/
def Obligations.CommandFrames : Prop :=
  ∀ (i : Instr) (s : State),
    (∃ c : Cause, exec i s = .next { s with blk := { s.blk with fault := some c, fcmd := encode i } }) ∨
    ∃ b : Block s.cfg.width.bits,
      exec i s = .next { s with blk := b } ∧
      b.fault = s.blk.fault ∧ b.fcmd = s.blk.fcmd ∧ b.dataIn = s.blk.dataIn ∧
      (∀ r : RegNum, writesReg r i = false → b.x[r] = s.blk.x[r]) ∧
      ((∀ xs, i ≠ .rdx xs) → b.dataOut = s.blk.dataOut) ∧
      ((∀ code, i ≠ .vsel code) →
        b.p = s.blk.p ∧ b.pvalid = s.blk.pvalid ∧ b.var = s.blk.var ∧
        (usesTables i = false → b.dt = s.blk.dt ∧ b.rt = s.blk.rt) ∧
        (usesRadixTable i = false → b.rt = s.blk.rt) ∧
        (s.blk.dt ≠ none → i ≠ .dtb → b.dt = s.blk.dt) ∧
        (s.blk.rt ≠ none → i ≠ .rtb → b.rt = s.blk.rt))

/-- NO_VARIANT: every command that reads the parameter set or a table records it while `PVALID = 0`, and does nothing
else (R255). -/
def Obligations.NoVariantFault : Prop :=
  ∀ (i : Instr) (s : State), readsParams i = true → i.wellFormed s.cfg = true → s.blk.pvalid = false →
    exec i s = .next { s with blk := { s.blk with fault := some .noVariant, fcmd := encode i } }

/-- A radix command on an instance without the radix table records ILLEGAL_OPCODE; MDT and MRT beyond the instance's
table positions record INDEX_RANGE, selected variant or not (R133, R152, R153, R186, R187, R257). -/
def Obligations.AbsentTablePositionFaults : Prop :=
  ∀ (s : State) (xd xs xn : RegNum) (md : MapNum) (d : Dir) (i : BitVec 7) (p : BitVec 3) (v : BitVec 8),
    (s.cfg.rtPresent = false →
      exec .rtb s = .next { s with blk := { s.blk with fault := some .illegalOpcode, fcmd := encode .rtb } } ∧
      exec (.jrf xd xs xn) s =
        .next { s with blk := { s.blk with fault := some .illegalOpcode, fcmd := encode (.jrf xd xs xn) } } ∧
      exec (.jrb xd xs xn) s =
        .next { s with blk := { s.blk with fault := some .illegalOpcode, fcmd := encode (.jrb xd xs xn) } } ∧
      exec (.mrt md d p v) s =
        .next { s with blk := { s.blk with fault := some .illegalOpcode, fcmd := encode (.mrt md d p v) } }) ∧
    (s.cfg.width.bits ≤ i.toNat →
      exec (.mdt md d i) s =
        .next { s with blk := { s.blk with fault := some .indexRange, fcmd := encode (.mdt md d i) } }) ∧
    (s.cfg.rtPresent = true → s.cfg.width.bits / 8 ≤ p.toNat →
      exec (.mrt md d p v) s =
        .next { s with blk := { s.blk with fault := some .indexRange, fcmd := encode (.mrt md d p v) } })

/-! ## Results of the commands (40 to 44) -/

/-- NOP (R130), LDX (R230), RDX (R231), MOV (R232). -/
def Obligations.TransferResults : Prop :=
  ∀ (s : State) (xd xs : RegNum),
    exec .nop s = .next s ∧
    exec (.ldx xd) s = .next { s with blk := { s.blk with x := s.blk.x.set xd.val s.blk.dataIn } } ∧
    exec (.rdx xs) s = .next { s with blk := { s.blk with dataOut := s.blk.x[xs] } } ∧
    exec (.mov xd xs) s = .next { s with blk := { s.blk with x := s.blk.x.set xd.val s.blk.x[xs] } }

/-- VSEL of a supported code loads its row, sets PVALID and VAR and invalidates both tables; of another code it records
ILLEGAL_VARIANT and the old selection and tables stay (R131). -/
def Obligations.VselResult : Prop :=
  ∀ (s : State) (code : BitVec 12),
    (∀ p, supportedParams s.cfg code.toNat = some p →
      exec (.vsel code) s = .next { s with
        blk := { s.blk with p := p, pvalid := true, var := code.setWidth 3, dt := none, rt := none } }) ∧
    (supportedParams s.cfg code.toNat = none →
      exec (.vsel code) s = .next { s with
        blk := { s.blk with fault := some .illegalVariant, fcmd := encode (.vsel code) } })

/-- The registry (R124): the rows an instance supports and their constants, and no others. -/
def Obligations.RegistryRows : Prop :=
  ∀ c : Config,
    supportedParams { c with width := .w32 } 0 =
      some { mul := 0x41C64E6D, add := 0x00006073, invMul := 0xEEB9EB65, invAdd := 0x0A3561A1 } ∧
    supportedParams { c with width := .w32 } 1 =
      some { mul := 0x000343FD, add := 0x00269EC3, invMul := 0xB9B33155, invAdd := 0xA170F641 } ∧
    supportedParams { c with width := .w32 } 2 =
      some { mul := 0x41C64E6D, add := 0x00003039, invMul := 0xEEB9EB65, invAdd := 0xFC77A683 } ∧
    supportedParams { c with width := .w32, revstdPresent := true } 3 =
      some { mul := c.revstdMul, add := c.revstdAdd, invMul := c.revstdInvMul, invAdd := c.revstdInvAdd } ∧
    supportedParams { c with width := .w64 } 4 =
      some { mul := 0x5D588B656C078965, add := 0x0000000000269EC3
             invMul := 0xDEDCEDAE9638806D, invAdd := 0x9B1AE6E9A384E6F9 } ∧
    supportedParams { c with revstdPresent := false } 3 = none ∧
    supportedParams { c with width := .w32 } 4 = none ∧
    (∀ code, code < 4 → supportedParams { c with width := .w64 } code = none) ∧
    ∀ code, 5 ≤ code → supportedParams c code = none

/-- ILLEGAL_VARIANT is recorded by VSEL for codes 5 to 4095 always, code 4 on `AMC-W32`, codes 0 to 3 on `AMC-W64`, and
code 3 when `REVSTD_PRESENT = 0`, with no other effect (R254); for no other code (the codes VSEL accepts complete). -/
def Obligations.IllegalVariantFault : Prop :=
  ∀ (s : State) (code : BitVec 12),
    (5 ≤ code.toNat ∨ code = 4 ∧ s.cfg.width = .w32 ∨ code.toNat ≤ 3 ∧ s.cfg.width = .w64 ∨
      code = 3 ∧ s.cfg.revstdPresent = false →
      exec (.vsel code) s = .next { s with
        blk := { s.blk with fault := some .illegalVariant, fcmd := encode (.vsel code) } }) ∧
    (code.toNat ≤ 2 ∧ s.cfg.width = .w32 ∨ code = 3 ∧ s.cfg.width = .w32 ∧ s.cfg.revstdPresent = true ∨
      code = 4 ∧ s.cfg.width = .w64 →
      ∃ p, exec (.vsel code) s = .next { s with
        blk := { s.blk with p := p, pvalid := true, var := code.setWidth 3, dt := none, rt := none } })

/-- DTB builds both directions of the doubling table from the parameter set, valid or not (R132). RTB builds the radix
table from the doubling table, which it builds first if it is not valid (R133). -/
def Obligations.TableBuilders : Prop :=
  ∀ s : State, s.blk.pvalid = true →
    exec .dtb s = .next { s with
      blk := { s.blk with
        dt := some
          { fwd := doublingTable { a := s.blk.p.mul, b := s.blk.p.add }
            bwd := doublingTable { a := s.blk.p.invMul, b := s.blk.p.invAdd } } } } ∧
    (s.cfg.rtPresent = true →
      ∀ t, (s.blk.dt = some t ∨ s.blk.dt = none ∧
          t = { fwd := doublingTable { a := s.blk.p.mul, b := s.blk.p.add }
                bwd := doublingTable { a := s.blk.p.invMul, b := s.blk.p.invAdd } }) →
        exec .rtb s = .next { s with
          blk := { s.blk with dt := some t, rt := some { fwd := radixTable t.fwd, bwd := radixTable t.bwd } } })

/-- STF: `X[xd] <- P.MUL * X[xs] + P.ADD` (R180). STB: `X[xd] <- P.INVMUL * X[xs] + P.INVADD` (R181). -/
def Obligations.SingleStepResults : Prop :=
  ∀ (s : State) (xd xs : RegNum), s.blk.pvalid = true →
    exec (.stf xd xs) s = .next { s with
      blk := { s.blk with x := s.blk.x.set xd.val (s.blk.p.mul * s.blk.x[xs] + s.blk.p.add) } } ∧
    exec (.stb xd xs) s = .next { s with
      blk := { s.blk with x := s.blk.x.set xd.val (s.blk.p.invMul * s.blk.x[xs] + s.blk.p.invAdd) } }

/-- JDF and JDB fold the table in force, the stored one or the one they build and store (R183, R184, R129). -/
def Obligations.DoublingJumpResults : Prop :=
  ∀ (s : State) (xd xs xn : RegNum) (t : BothWays (DoublingTable s.cfg.width.bits)), s.blk.pvalid = true →
    (s.blk.dt = some t ∨ s.blk.dt = none ∧ t = doublingTables s.blk.p) →
    exec (.jdf xd xs xn) s = .next { s with
      blk := { s.blk with x := s.blk.x.set xd.val (jumpD t.fwd s.blk.x[xs] s.blk.x[xn]), dt := some t } } ∧
    exec (.jdb xd xs xn) s = .next { s with
      blk := { s.blk with x := s.blk.x.set xd.val (jumpD t.bwd s.blk.x[xs] s.blk.x[xn]), dt := some t } }

/-- JRF and JRB fold the radix table in force: a valid one is used as it is; otherwise both tables are ensured and
stored first (R186, R187, R129). -/
def Obligations.RadixJumpResults : Prop :=
  ∀ (s : State) (xd xs xn : RegNum), s.blk.pvalid = true → s.cfg.rtPresent = true →
    (∀ r, s.blk.rt = some r →
      exec (.jrf xd xs xn) s = .next { s with
        blk := { s.blk with x := s.blk.x.set xd.val (jumpR r.fwd s.blk.x[xs] s.blk.x[xn]) } } ∧
      exec (.jrb xd xs xn) s = .next { s with
        blk := { s.blk with x := s.blk.x.set xd.val (jumpR r.bwd s.blk.x[xs] s.blk.x[xn]) } }) ∧
    (∀ t, s.blk.rt = none → (s.blk.dt = some t ∨ s.blk.dt = none ∧ t = doublingTables s.blk.p) →
      exec (.jrf xd xs xn) s = .next { s with
        blk := { s.blk with
          x := s.blk.x.set xd.val (jumpR (radixTable t.fwd) s.blk.x[xs] s.blk.x[xn])
          dt := some t
          rt := some (radixTables t) } } ∧
      exec (.jrb xd xs xn) s = .next { s with
        blk := { s.blk with
          x := s.blk.x.set xd.val (jumpR (radixTable t.bwd) s.blk.x[xs] s.blk.x[xn])
          dt := some t
          rt := some (radixTables t) } })

/-- GIX (R213) and GIXR (R214): they read no table and write one register. -/
def Obligations.IndexResults : Prop :=
  ∀ (s : State) (xd xs xo : RegNum), s.blk.pvalid = true →
    exec (.gix xd xs) s = .next { s with
      blk := { s.blk with x := s.blk.x.set xd.val (invertIter s.blk.x[xs] s.blk.p.mul s.blk.p.add) } } ∧
    exec (.gixr xd xs xo) s = .next { s with
      blk := { s.blk with
        x := s.blk.x.set xd.val
          (invertIter s.blk.x[xs] s.blk.p.mul s.blk.p.add - invertIter s.blk.x[xo] s.blk.p.mul s.blk.p.add) } }

/-- MID (R150) and MBASE in both directions (R151): the pair `(x(2k), x(2k+1))` and nothing else. -/
def Obligations.MapLoadResults : Prop :=
  ∀ (s : State) (md : MapNum),
    exec (.mid md) s = .next { s with
      blk := { s.blk with x := (s.blk.x.set (2 * md.val) 1).set (2 * md.val + 1) 0 } } ∧
    (s.blk.pvalid = true →
      exec (.mbase md .forward) s = .next { s with
        blk := { s.blk with x := (s.blk.x.set (2 * md.val) s.blk.p.mul).set (2 * md.val + 1) s.blk.p.add } } ∧
      exec (.mbase md .backward) s = .next { s with
        blk := { s.blk with x := (s.blk.x.set (2 * md.val) s.blk.p.invMul).set (2 * md.val + 1) s.blk.p.invAdd } })

/-- MDT loads entry `i` of the table in force, which it stores (R152). -/
def Obligations.MdtResult : Prop :=
  ∀ (s : State) (md : MapNum) (d : Dir) (i : BitVec 7) (t : BothWays (DoublingTable s.cfg.width.bits))
    (h : i.toNat < s.cfg.width.bits), s.blk.pvalid = true →
    (s.blk.dt = some t ∨ s.blk.dt = none ∧ t = doublingTables s.blk.p) →
    exec (.mdt md d i) s = .next { s with
      blk := { s.blk with
        x := (s.blk.x.set (2 * md.val) (t.get d)[i.toNat].a).set (2 * md.val + 1) (t.get d)[i.toNat].b
        dt := some t } }

/-- MRT loads an entry of the radix table in force: a valid one, or the one it builds, storing both tables (R153). -/
def Obligations.MrtResult : Prop :=
  ∀ (s : State) (md : MapNum) (d : Dir) (p : BitVec 3) (v : BitVec 8) (r : BothWays (RadixTable s.cfg.width.bits))
    (h : p.toNat < s.cfg.width.bits / 8), s.blk.pvalid = true → s.cfg.rtPresent = true →
    (s.blk.rt = some r →
      exec (.mrt md d p v) s = .next { s with
        blk := { s.blk with
          x := (s.blk.x.set (2 * md.val) (r.get d)[p.toNat][v.toNat].a).set (2 * md.val + 1)
            (r.get d)[p.toNat][v.toNat].b } }) ∧
    (∀ t, s.blk.rt = none → (s.blk.dt = some t ∨ s.blk.dt = none ∧ t = doublingTables s.blk.p) → r = radixTables t →
      exec (.mrt md d p v) s = .next { s with
        blk := { s.blk with
          x := (s.blk.x.set (2 * md.val) (r.get d)[p.toNat][v.toNat].a).set (2 * md.val + 1)
            (r.get d)[p.toNat][v.toNat].b
          dt := some t
          rt := some r } })

/-- MCMP (R154), MSQ (R155), MAPP (R156), every operand read before the write, whichever registers are shared (R22). -/
def Obligations.ComposerResults : Prop :=
  ∀ (s : State) (md m1 m2 : MapNum) (xd xs : RegNum),
    exec (.mcmp md m1 m2) s = .next { s with
      blk := { s.blk with
        x := (s.blk.x.set (2 * md.val) (s.blk.x[mulReg m2] * s.blk.x[mulReg m1])).set (2 * md.val + 1)
          (s.blk.x[mulReg m2] * s.blk.x[addReg m1] + s.blk.x[addReg m2]) } } ∧
    exec (.msq md m1) s = .next { s with
      blk := { s.blk with
        x := (s.blk.x.set (2 * md.val) (s.blk.x[mulReg m1] * s.blk.x[mulReg m1])).set (2 * md.val + 1)
          (s.blk.x[addReg m1] * (1 + s.blk.x[mulReg m1])) } } ∧
    exec (.mapp xd m1 xs) s = .next { s with
      blk := { s.blk with x := s.blk.x.set xd.val (s.blk.x[mulReg m1] * s.blk.x[xs] + s.blk.x[addReg m1]) } }

/-! ## The algebra (40 to 43) -/

/-- Composition (R121): it applies the first map and then the second, is associative, is not commutative, but any two
powers of one map commute. -/
def Obligations.CompositionLaws : Prop :=
  ∀ w : Nat,
    (∀ (m1 m2 : AffineMap w) (s : BitVec w), (m1.compose m2).apply s = m2.apply (m1.apply s)) ∧
    (∀ m1 m2 m3 : AffineMap w, (m1.compose m2).compose m3 = m1.compose (m2.compose m3)) ∧
    (∀ (m : AffineMap w) (j k : Nat),
      AffineMap.compose ((fun n => AffineMap.compose n m)^[j] (AffineMap.ident w))
          ((fun n => AffineMap.compose n m)^[k] (AffineMap.ident w)) =
        (fun n => AffineMap.compose n m)^[j + k] (AffineMap.ident w)) ∧
    AffineMap.compose (w := 32) { a := 3, b := 5 } { a := 7, b := 11 } = { a := 21, b := 46 } ∧
    AffineMap.compose (w := 32) { a := 7, b := 11 } { a := 3, b := 5 } = { a := 21, b := 38 }

/-- Squaring is self-composition (R122); the identity is neutral (R123). -/
def Obligations.SquareAndIdentity : Prop :=
  ∀ (w : Nat) (m : AffineMap w) (s : BitVec w),
    m.square = { a := m.a * m.a, b := m.b * (1 + m.a) } ∧ m.square = m.compose m ∧ m.square.apply s = m.apply (m.apply s) ∧
    (AffineMap.ident w).compose m = m ∧ m.compose (.ident w) = m ∧ (AffineMap.ident w).apply s = s

/-- The doubling table (R127): entry 0 is the base, each entry the square of the one before from the un-squared
multiplier, entry `i` the base applied `2^i` times; for a base that meets R212's precondition, as both base maps of every
printed variant do (`RegistrySound`), the last entry is `(1, 2^(W-1))`. -/
def Obligations.DoublingTableEntries : Prop :=
  ∀ (w : Nat) (base : AffineMap w),
    (∀ h : 0 < w, (doublingTable base)[0] = base) ∧
    (∀ (i : Nat) (h : i + 1 < w),
      (doublingTable base)[i + 1] =
        { a := (doublingTable base)[i].a * (doublingTable base)[i].a
          b := (doublingTable base)[i].b * (1 + (doublingTable base)[i].a) }) ∧
    (∀ (i : Nat) (h : i < w) (s : BitVec w), (doublingTable base)[i].apply s = base.apply^[2 ^ i] s) ∧
    (∀ h : 0 < w, base.invertible → (doublingTable base)[w - 1] = { a := 1, b := BitVec.twoPow w (w - 1) })

/-- The radix table (R128): `R[p][0]` is the identity, `R[p][2^j]` is entry `8p + j` of the doubling table, and
`R[p][v]` over the doubling table of a base map is that map applied `v * 2^(8p)` times (R153). -/
def Obligations.RadixTableEntries : Prop :=
  ∀ (w : Nat) (t : DoublingTable w) (base : AffineMap w) (p : Nat) (hp : p < w / 8),
    (radixTable t)[p][0] = .ident w ∧
    (∀ (j : Nat) (hj : j < 8),
      (radixTable t)[p][2 ^ j]'(Nat.lt_of_lt_of_le (Nat.pow_lt_pow_right (by omega) hj) (by decide)) =
        t[8 * p + j]'(by omega)) ∧
    (∀ (v : Nat) (hv : v < 256) (s : BitVec w),
      (radixTable (doublingTable base))[p][v].apply s = base.apply^[v * 2 ^ (8 * p)] s)

/-- The doubling jump over the table of a base map is that map applied `n` times (R182, R127): jump by `n` is `n` single
steps. -/
def Obligations.JumpIsIteratedStep : Prop :=
  ∀ (w : Nat) (base : AffineMap w) (s n : BitVec w), jumpD (doublingTable base) s n = base.apply^[n.toNat] s

/-- The set bits folded in any order give the same final state (R182). -/
def Obligations.FoldOrderNotObservable : Prop :=
  ∀ (w : Nat) (base : AffineMap w) (s n : BitVec w) (order : List (Fin w)), order.Perm (List.finRange w) →
    order.foldl (fun s i => if n.getLsbD i.val then (doublingTable base)[i].apply s else s) s =
      jumpD (doublingTable base) s n

/-- Strategy equivalence (R188): over any doubling table of either instance width, the radix jump equals the doubling
jump. -/
def Obligations.RadixJumpEqualsDoublingJump : Prop :=
  ∀ (c : Width) (t : DoublingTable c.bits) (s n : BitVec c.bits), jumpR (radixTable t) s n = jumpD t s n

/-- The stepper's laws (R189) for a parameter set that meets R126: the round trips, additivity modulo `2^W`, a backward
jump by `n` is a forward jump by `-n`, and in particular a forward jump by `2^W - 1` is one backward step. -/
def Obligations.StepperLaws : Prop :=
  ∀ (w : Nat) (p : ParamSet w) (s n n1 n2 : BitVec w), p.sound →
    p.backward.apply (p.forward.apply s) = s ∧ p.forward.apply (p.backward.apply s) = s ∧
    jumpD (doublingTable p.backward) (jumpD (doublingTable p.forward) s n) n = s ∧
    jumpD (doublingTable p.forward) (jumpD (doublingTable p.forward) s n1) n2 =
      jumpD (doublingTable p.forward) s (n1 + n2) ∧
    jumpD (doublingTable p.backward) s n = jumpD (doublingTable p.forward) s (-n) ∧
    jumpD (doublingTable p.forward) s (BitVec.allOnes w) = p.backward.apply s

/-- The iterative inverter computes the recursive definition (R211, R210). -/
def Obligations.InvertIterIsInvert : Prop :=
  ∀ (w : Nat) (s a b : BitVec w), invertIter s a b = invert s a b w

/-- Index inversion is correct (R212): for `A mod 4 = 1` and `B` odd the index of the seed `n` steps from 0 is `n`, and
every seed is reached from 0 by exactly one count. -/
def Obligations.InverterCorrect : Prop :=
  ∀ (w : Nat) (base : AffineMap w), base.invertible →
    (∀ n : BitVec w, invertIter (jumpD (doublingTable base) 0 n) base.a base.b = n) ∧
    (∀ seed : BitVec w, ∃! n : BitVec w, jumpD (doublingTable base) 0 n = seed)

/-- The relative index (R214): the distance between two seeds, whatever their origin; and advancing the first by it
gives the second. -/
def Obligations.RelativeIndex : Prop :=
  ∀ (w : Nat) (p : ParamSet w) (s1 s2 d : BitVec w), p.forward.invertible →
    getIndex p (jumpD (doublingTable p.forward) s1 d) - getIndex p s1 = d ∧
    jumpD (doublingTable p.forward) s1 (getIndex p s2 - getIndex p s1) = s2

/-- Every parameter set an instance can select meets R126, given R125's requirement on the open literals, and both base
maps of every variant but ReverseStdLCG meet R212's precondition. -/
def Obligations.RegistrySound : Prop :=
  ∀ (c : Config) (code : Nat) (p : ParamSet c.width.bits), c.revstdSound → supportedParams c code = some p →
    p.sound ∧ (code ≠ 3 → p.forward.invertible ∧ p.backward.invertible)

/-! ## Invariants and whole-machine rules -/

/-- The invariant holds at reset, of every instance. -/
def Obligations.InvAtReset : Prop := ∀ c : Config, (State.resetOf c).Inv

/-- Every step keeps the invariant: a valid parameter set is the registry row of VAR (R24), a valid doubling table is
that of the parameters (R25), a valid radix table is that of the valid doubling table (R26), whatever the host does. -/
def Obligations.StepKeepsInv : Prop := ∀ s t : State, s.Inv → step s = .next t → t.Inv

/-- No fault is recorded at reset. -/
def Obligations.FaultRecordAtReset : Prop := ∀ c : Config, (State.resetOf c).FaultRecordTrue

/-- Every step keeps the fault record true: while `FAULT = 1`, FCMD is a word that raises CAUSE in the block as it is
(R250 to R255, R259 to R261). That the record stays the first fault's is `FirstFaultRecordKept`. -/
def Obligations.StepKeepsFaultRecord : Prop :=
  ∀ s t : State, s.FaultRecordTrue → step s = .next t → t.FaultRecordTrue

/-- No command reads a table of an earlier parameter set (R66): under the invariant the tables a command reads are those
of the parameters in force, and a step that selects a variant leaves no valid table. -/
def Obligations.NoStaleTable : Prop :=
  ∀ s : State, s.Inv →
    s.blk.doubling = doublingTables s.blk.p ∧ s.blk.radix = radixTables (doublingTables s.blk.p) ∧
    ∀ t, step s = .next t → t.Inv ∧ (t.blk.var ≠ s.blk.var → t.blk.dt = none ∧ t.blk.rt = none)

/-- What JDF, JDB, JRF and JRB do, with no table in sight: under the invariant each replaces `X[xd]` by the seed `X[xs]`
stepped `X[xn]` times by the base map of its direction, and leaves the tables it used valid (R183 to R187, R189). -/
def Obligations.JumpCommandsIterateTheBaseMap : Prop :=
  ∀ (s : State) (xd xs xn : RegNum), s.Inv → s.blk.pvalid = true →
    exec (.jdf xd xs xn) s = .next { s with
      blk := { s.blk with
        x := s.blk.x.set xd.val ((fun y => s.blk.p.mul * y + s.blk.p.add)^[(s.blk.x[xn]).toNat] s.blk.x[xs])
        dt := some (doublingTables s.blk.p) } } ∧
    exec (.jdb xd xs xn) s = .next { s with
      blk := { s.blk with
        x := s.blk.x.set xd.val ((fun y => s.blk.p.invMul * y + s.blk.p.invAdd)^[(s.blk.x[xn]).toNat] s.blk.x[xs])
        dt := some (doublingTables s.blk.p) } } ∧
    (s.cfg.rtPresent = true →
      exec (.jrf xd xs xn) s = .next { s with
        blk := { s.blk with
          x := s.blk.x.set xd.val ((fun y => s.blk.p.mul * y + s.blk.p.add)^[(s.blk.x[xn]).toNat] s.blk.x[xs])
          dt := some (doublingTables s.blk.p)
          rt := some (radixTables (doublingTables s.blk.p)) } } ∧
      exec (.jrb xd xs xn) s = .next { s with
        blk := { s.blk with
          x := s.blk.x.set xd.val ((fun y => s.blk.p.invMul * y + s.blk.p.invAdd)^[(s.blk.x[xn]).toNat] s.blk.x[xs])
          dt := some (doublingTables s.blk.p)
          rt := some (radixTables (doublingTables s.blk.p)) } })

/-- GIX of a seed `n` forward steps from 0 gives `n`, under every variant with printed constants, and under ReverseStdLCG
when its literals meet R212's precondition (R212, R213). -/
def Obligations.GixCountsSteps : Prop :=
  ∀ (s : State) (xd xs : RegNum) (n : Nat), s.Inv → s.blk.pvalid = true →
    s.blk.var ≠ 3 ∨ s.blk.p.forward.invertible → n < 2 ^ s.cfg.width.bits →
    s.blk.x[xs] = (fun y => s.blk.p.mul * y + s.blk.p.add)^[n] 0 →
    exec (.gix xd xs) s = .next { s with
      blk := { s.blk with x := s.blk.x.set xd.val (BitVec.ofNat _ n) } }

/-- Whether a table has been built is not observable in any result (R27, R129): from a state and from the same state
with its tables built beforehand, every command leaves the same registers, parameters, host registers and fault
record. -/
def Obligations.TableBuildsNotObservable : Prop :=
  ∀ (i : Instr) (s : State), s.Inv → s.blk.pvalid = true →
    ∃ b1 b2 : Block s.cfg.width.bits,
      exec i s = .next { s with blk := b1 } ∧
      exec i { s with blk := { s.blk with dt := some s.blk.doubling, rt := some s.blk.radix } } =
        .next { s with blk := b2 } ∧
      b1.x = b2.x ∧ b1.p = b2.p ∧ b1.pvalid = b2.pvalid ∧ b1.var = b2.var ∧ b1.dataIn = b2.dataIn ∧
      b1.dataOut = b2.dataOut ∧ b1.fault = b2.fault ∧ b1.fcmd = b2.fcmd

/-- The first fault's record is kept (R260, R261): while `FAULT = 1` every step that is neither a reset nor a STATUS write
with bit 0 = 1 keeps FAULT, CAUSE and FCMD, and no host access at all changes FCMD. -/
def Obligations.FirstFaultRecordKept : Prop :=
  ∀ (s t : State) (c : Cause), s.blk.fault = some c → step s = .next t →
    ((∀ i ∈ s.pending.head?, clearsFault i = false) → t.blk.fault = some c ∧ t.blk.fcmd = s.blk.fcmd) ∧
    ∀ (a : HostAccess) (rest : List HostInput), s.pending = .access a :: rest → t.blk.fcmd = s.blk.fcmd
end

