-- ==== Sys2Proof/Laws/Affine.lean ====
section
/-! SUPPORT. What the tables hold where, and what a supported code is. -/

namespace Sys2Proof.Machine

/-- An entry of a doubling table is that of its list of squarings. -/
theorem doublingTable_getElem {w : Nat} (m : AffineMap w) (i : Nat) (h : i < w) :
    (doublingTable m)[i] = (squarings m w)[i]'(by rw [squarings_length]; exact h) := rfl

/-- The maps of a list of squarings. -/
theorem squarings_getElem {w : Nat} (m : AffineMap w) (n i : Nat) (h : i < (squarings m n).length) :
    (squarings m n)[i] = AffineMap.square^[i] m := by
  induction n generalizing m i with
  | zero => simp [squarings] at h
  | succ n ih =>
    cases i with
    | zero => rfl
    | succ i =>
      simp only [squarings, List.getElem_cons_succ]
      rw [ih]
      rfl

/-- An entry of a radix table (40_variant_and_tables.md R128). -/
theorem radixTable_getElem {w : Nat} (t : DoublingTable w) (p v : Nat) (hp : p < w / 8) (hv : v < 256) :
    (radixTable t)[p][v] = radixEntry t ⟨p, hp⟩ (BitVec.ofNat 8 v) := by
  have h1 : (radixTable t)[p] = radixRow t ⟨p, hp⟩ := by simp [radixTable]
  rw [h1]
  simp [radixRow]

/-- A supported code has a row of the instance's width, and its parameters are that row's. -/
theorem supportedParams_some {c : Config} {code : Nat} {p : ParamSet c.width.bits}
    (h : supportedParams c code = some p) :
    ∃ r, variantRow c code = some r ∧ r.width = c.width ∧ p = r.params c.width.bits := by
  unfold supportedParams at h
  split at h
  · next r hr =>
    split at h
    · next hw => exact ⟨r, hr, hw, by simpa using h.symm⟩
    · cases h
  · cases h

/-- Codes 5 and above have no row. -/
theorem variantRow_lt {c : Config} {code : Nat} {r : VariantRow} (h : variantRow c code = some r) : code < 5 := by
  by_contra hc
  obtain ⟨k, rfl⟩ := Nat.exists_eq_add_of_le' (Nat.le_of_not_lt hc)
  cases h

end Sys2Proof.Machine
end

