-- ==== Sys2Proof/Laws/Encoding.lean ====
section
/-! SUPPORT. The fields of a command word and the numbers they hold. -/

namespace Sys2Proof

section Fields

variable (op : Op) (rd rs1 rs2 : BitVec 4) (imm : BitVec 12)

@[simp] theorem opField_commandWord : opField (commandWord op rd rs1 rs2 imm) = op.code := by
  unfold opField commandWord; ext i hi; simp; grind

@[simp] theorem rdField_commandWord : rdField (commandWord op rd rs1 rs2 imm) = rd := by
  unfold rdField commandWord; ext i hi; simp; grind

@[simp] theorem rs1Field_commandWord : rs1Field (commandWord op rd rs1 rs2 imm) = rs1 := by
  unfold rs1Field commandWord; ext i hi; simp; grind

@[simp] theorem rs2Field_commandWord : rs2Field (commandWord op rd rs1 rs2 imm) = rs2 := by
  unfold rs2Field commandWord; ext i hi; simp; grind

@[simp] theorem immField_commandWord : immField (commandWord op rd rs1 rs2 imm) = imm := by
  unfold immField commandWord; ext i hi; simp; grind

/-- A word is its five fields. -/
theorem word_eq_fields (w : Command) :
    (opField w ++ rdField w ++ rs1Field w ++ rs2Field w ++ immField w : BitVec 32) = w := by
  unfold opField rdField rs1Field rs2Field immField; ext i hi; simp; grind

/-- A mask that keeps the opcode acts on each field. -/
theorem commandWord_and (m1 m2 m3 : BitVec 4) (m4 : BitVec 12) :
    commandWord op rd rs1 rs2 imm &&& ((0xFF : BitVec 8) ++ m1 ++ m2 ++ m3 ++ m4 : BitVec 32) =
      commandWord op (rd &&& m1) (rs1 &&& m2) (rs2 &&& m3) (imm &&& m4) := by
  unfold commandWord
  rw [BitVec.and_append (w := 20), BitVec.and_append, BitVec.and_append, BitVec.and_append]
  have h : op.code &&& 0xFF = op.code := by cases op <;> rfl
  rw [h]

end Fields

@[simp] theorem regOf_regBits (r : RegNum) : regOf (regBits r) = r := by
  apply Fin.ext
  simp only [regOf, regBits, BitVec.toNat_ofNat]
  omega

@[simp] theorem mapOf_mapBits (m : MapNum) : mapOf (mapBits m) = m := by
  revert m; decide

@[simp] theorem mapBits_and (m : MapNum) : mapBits m &&& 8#4 = 0#4 := by
  revert m; decide

theorem dirImm_and_mbase (d : Dir) : ((0 : BitVec 11) ++ dirBit d : BitVec 12) &&& 0xFFE = 0 := by
  cases d <;> decide

theorem dirImm_and_mdt (i : BitVec 7) (d : Dir) : ((0 : BitVec 4) ++ i ++ dirBit d : BitVec 12) &&& 0xF00 = 0 := by
  have h : (0xF00 : BitVec 12) = (0xF : BitVec 4) ++ (0 : BitVec 7) ++ (0 : BitVec 1) := rfl
  rw [h, BitVec.and_append, BitVec.and_append]
  simp

/-! ## Immediates (30_encoding.md R93) -/

@[simp] theorem dirOf_mbase (d : Dir) : dirOf ((0 : BitVec 11) ++ dirBit d : BitVec 12) = d := by
  cases d <;> decide

@[simp] theorem dirOf_append (v : BitVec 11) (d : Dir) : dirOf (v ++ dirBit d : BitVec 12) = d := by
  have h : (v ++ dirBit d : BitVec 12).getLsbD 0 = (dirBit d).getLsbD 0 := by
    rw [BitVec.getLsbD_append]; rfl
  cases d <;> simp only [dirOf, h] <;> decide

theorem mdtIndex_imm (i : BitVec 7) (d : Dir) :
    ((0 : BitVec 4) ++ i ++ dirBit d : BitVec 12).extractLsb' 1 7 = i := by
  ext k hk; simp; grind

theorem mrtPosition_imm (v : BitVec 8) (p : BitVec 3) (d : Dir) :
    (v ++ p ++ dirBit d : BitVec 12).extractLsb' 1 3 = p := by
  ext k hk; simp; grind

theorem mrtValue_imm (v : BitVec 8) (p : BitVec 3) (d : Dir) :
    (v ++ p ++ dirBit d : BitVec 12).extractLsb' 4 8 = v := by
  ext k hk; simp; grind

/-- `w[7:1]` is `IMM[7:1]`. -/
theorem mdtIndex_immField (w : Command) : w.extractLsb' 1 7 = (immField w).extractLsb' 1 7 := by
  unfold immField; ext k hk; simp

/-- `w[3:1]` is `IMM[3:1]`. -/
theorem mrtPosition_immField (w : Command) : w.extractLsb' 1 3 = (immField w).extractLsb' 1 3 := by
  unfold immField; ext k hk; simp

/-- The row a command's fields are read by is its own. -/
@[simp] theorem opOf_operandsOf (op : Op) (w : Command) : opOf (operandsOf op w) = op := by
  cases op <;> rfl

@[simp] theorem ofCode_code (op : Op) : Op.ofCode op.code = some op := by
  cases op <;> decide

/-- Only the table's rows have an opcode. -/
theorem code_of_ofCode {b : BitVec 8} {op : Op} (h : Op.ofCode b = some op) : op.code = b := by
  have := List.find?_some h
  simpa using this

end Sys2Proof
end

