-- ==== Sys2Proof/Laws/State.lean ====
section
/-! SUPPORT. One lemma for each field of the block and each update: what an update leaves as it was. -/

namespace Sys2Proof.Machine

variable {w : Nat} (b : Block w)

/-! ## A register write -/

@[simp] theorem Block.setX_p (r : RegNum) (v : BitVec w) : (b.setX r v).p = b.p := rfl
@[simp] theorem Block.setX_pvalid (r : RegNum) (v : BitVec w) : (b.setX r v).pvalid = b.pvalid := rfl
@[simp] theorem Block.setX_var (r : RegNum) (v : BitVec w) : (b.setX r v).var = b.var := rfl
@[simp] theorem Block.setX_dt (r : RegNum) (v : BitVec w) : (b.setX r v).dt = b.dt := rfl
@[simp] theorem Block.setX_rt (r : RegNum) (v : BitVec w) : (b.setX r v).rt = b.rt := rfl
@[simp] theorem Block.setX_dataIn (r : RegNum) (v : BitVec w) : (b.setX r v).dataIn = b.dataIn := rfl
@[simp] theorem Block.setX_dataOut (r : RegNum) (v : BitVec w) : (b.setX r v).dataOut = b.dataOut := rfl
@[simp] theorem Block.setX_fault (r : RegNum) (v : BitVec w) : (b.setX r v).fault = b.fault := rfl
@[simp] theorem Block.setX_fcmd (r : RegNum) (v : BitVec w) : (b.setX r v).fcmd = b.fcmd := rfl

/-! ## A map write -/

@[simp] theorem Block.setMap_p (k : MapNum) (m : AffineMap w) : (b.setMap k m).p = b.p := rfl
@[simp] theorem Block.setMap_pvalid (k : MapNum) (m : AffineMap w) : (b.setMap k m).pvalid = b.pvalid := rfl
@[simp] theorem Block.setMap_var (k : MapNum) (m : AffineMap w) : (b.setMap k m).var = b.var := rfl
@[simp] theorem Block.setMap_dt (k : MapNum) (m : AffineMap w) : (b.setMap k m).dt = b.dt := rfl
@[simp] theorem Block.setMap_rt (k : MapNum) (m : AffineMap w) : (b.setMap k m).rt = b.rt := rfl
@[simp] theorem Block.setMap_dataIn (k : MapNum) (m : AffineMap w) : (b.setMap k m).dataIn = b.dataIn := rfl
@[simp] theorem Block.setMap_dataOut (k : MapNum) (m : AffineMap w) : (b.setMap k m).dataOut = b.dataOut := rfl
@[simp] theorem Block.setMap_fault (k : MapNum) (m : AffineMap w) : (b.setMap k m).fault = b.fault := rfl
@[simp] theorem Block.setMap_fcmd (k : MapNum) (m : AffineMap w) : (b.setMap k m).fcmd = b.fcmd := rfl

/-! ## Fault entry -/

@[simp] theorem Block.raise_x (c : Cause) (word : Command) : (b.raise c word).x = b.x := rfl
@[simp] theorem Block.raise_p (c : Cause) (word : Command) : (b.raise c word).p = b.p := rfl
@[simp] theorem Block.raise_pvalid (c : Cause) (word : Command) : (b.raise c word).pvalid = b.pvalid := rfl
@[simp] theorem Block.raise_var (c : Cause) (word : Command) : (b.raise c word).var = b.var := rfl
@[simp] theorem Block.raise_dt (c : Cause) (word : Command) : (b.raise c word).dt = b.dt := rfl
@[simp] theorem Block.raise_rt (c : Cause) (word : Command) : (b.raise c word).rt = b.rt := rfl
@[simp] theorem Block.raise_dataIn (c : Cause) (word : Command) : (b.raise c word).dataIn = b.dataIn := rfl
@[simp] theorem Block.raise_dataOut (c : Cause) (word : Command) : (b.raise c word).dataOut = b.dataOut := rfl

/-! ## Fault return -/

@[simp] theorem Block.clearFault_x : (b.clearFault).x = b.x := rfl
@[simp] theorem Block.clearFault_p : (b.clearFault).p = b.p := rfl
@[simp] theorem Block.clearFault_pvalid : (b.clearFault).pvalid = b.pvalid := rfl
@[simp] theorem Block.clearFault_var : (b.clearFault).var = b.var := rfl
@[simp] theorem Block.clearFault_dt : (b.clearFault).dt = b.dt := rfl
@[simp] theorem Block.clearFault_rt : (b.clearFault).rt = b.rt := rfl
@[simp] theorem Block.clearFault_dataIn : (b.clearFault).dataIn = b.dataIn := rfl
@[simp] theorem Block.clearFault_dataOut : (b.clearFault).dataOut = b.dataOut := rfl
@[simp] theorem Block.clearFault_fcmd : (b.clearFault).fcmd = b.fcmd := rfl

/-! ## Selecting a variant -/

@[simp] theorem Block.select_x (p : ParamSet w) (code : BitVec 12) : (b.select p code).x = b.x := rfl
@[simp] theorem Block.select_dataIn (p : ParamSet w) (code : BitVec 12) : (b.select p code).dataIn = b.dataIn := rfl
@[simp] theorem Block.select_dataOut (p : ParamSet w) (code : BitVec 12) : (b.select p code).dataOut = b.dataOut := rfl
@[simp] theorem Block.select_fault (p : ParamSet w) (code : BitVec 12) : (b.select p code).fault = b.fault := rfl
@[simp] theorem Block.select_fcmd (p : ParamSet w) (code : BitVec 12) : (b.select p code).fcmd = b.fcmd := rfl

/-! ## Building the doubling tables -/

@[simp] theorem Block.buildDT_x : (b.buildDT).x = b.x := rfl
@[simp] theorem Block.buildDT_p : (b.buildDT).p = b.p := rfl
@[simp] theorem Block.buildDT_pvalid : (b.buildDT).pvalid = b.pvalid := rfl
@[simp] theorem Block.buildDT_var : (b.buildDT).var = b.var := rfl
@[simp] theorem Block.buildDT_rt : (b.buildDT).rt = b.rt := rfl
@[simp] theorem Block.buildDT_dataIn : (b.buildDT).dataIn = b.dataIn := rfl
@[simp] theorem Block.buildDT_dataOut : (b.buildDT).dataOut = b.dataOut := rfl
@[simp] theorem Block.buildDT_fault : (b.buildDT).fault = b.fault := rfl
@[simp] theorem Block.buildDT_fcmd : (b.buildDT).fcmd = b.fcmd := rfl

@[simp] theorem Block.raise_fault (c : Cause) (word : Command) : (b.raise c word).fault = some c := rfl
@[simp] theorem Block.raise_fcmd (c : Cause) (word : Command) : (b.raise c word).fcmd = word := rfl
@[simp] theorem Block.clearFault_fault : b.clearFault.fault = none := rfl
@[simp] theorem Block.select_p (p : ParamSet w) (code : BitVec 12) : (b.select p code).p = p := rfl
@[simp] theorem Block.select_pvalid (p : ParamSet w) (code : BitVec 12) : (b.select p code).pvalid = true := rfl
@[simp] theorem Block.select_var (p : ParamSet w) (code : BitVec 12) : (b.select p code).var = code.setWidth 3 := rfl
@[simp] theorem Block.select_dt (p : ParamSet w) (code : BitVec 12) : (b.select p code).dt = none := rfl
@[simp] theorem Block.select_rt (p : ParamSet w) (code : BitVec 12) : (b.select p code).rt = none := rfl
@[simp] theorem Block.buildDT_dt : b.buildDT.dt = some (doublingTables b.p) := rfl

/-! ## The host's side -/

@[simp] theorem State.answer_cfg (s : State) (r : HostResponse) : (s.answer r).cfg = s.cfg := rfl
@[simp] theorem State.answer_blk (s : State) (r : HostResponse) : (s.answer r).blk = s.blk := rfl
@[simp] theorem State.answer_pending (s : State) (r : HostResponse) : (s.answer r).pending = s.pending := rfl
@[simp] theorem State.answer_response (s : State) (r : HostResponse) : (s.answer r).response = r := rfl
@[simp] theorem State.accept_cfg (s : State) (b : Block s.cfg.width.bits) : (s.accept b).cfg = s.cfg := rfl
@[simp] theorem State.accept_blk (s : State) (b : Block s.cfg.width.bits) : (s.accept b).blk = b := rfl
@[simp] theorem State.accept_pending (s : State) (b : Block s.cfg.width.bits) :
    (s.accept b).pending = s.pending := rfl
@[simp] theorem State.accept_response (s : State) (b : Block s.cfg.width.bits) :
    (s.accept b).response = .accepted := rfl
@[simp] theorem State.resetBlock_cfg (s : State) (r : HostResponse) : (s.resetBlock r).cfg = s.cfg := rfl
@[simp] theorem State.resetBlock_blk (s : State) (r : HostResponse) :
    (s.resetBlock r).blk = Block.reset s.cfg.width.bits := rfl
@[simp] theorem State.resetBlock_pending (s : State) (r : HostResponse) :
    (s.resetBlock r).pending = s.pending := rfl
@[simp] theorem State.resetBlock_response (s : State) (r : HostResponse) : (s.resetBlock r).response = r := rfl

end Sys2Proof.Machine
end

