-- ==== Sys2Proof/Laws/Ops.lean ====
section
/-! SUPPORT. One lemma for each shared operation that says all it does; later proofs cite these and unfold nothing. -/

namespace Sys2Proof.Machine

/-! ## Registers and maps -/

@[simp] theorem Block.getX_setX_same {w : Nat} (b : Block w) (r : RegNum) (v : BitVec w) :
    (b.setX r v).getX r = v := by
  simp [Block.getX, Block.setX]

theorem Block.getX_setX_ne {w : Nat} (b : Block w) {r q : RegNum} (v : BitVec w) (h : q ≠ r) :
    (b.setX r v).getX q = b.getX q := by
  simp only [Block.getX, Block.setX, Fin.getElem_fin]
  exact Vector.getElem_set_ne _ _ (fun e => h (Fin.ext e.symm))

theorem mulReg_ne_addReg (k l : MapNum) : mulReg k ≠ addReg l := by
  intro h
  have := congrArg Fin.val h
  simp only [mulReg, addReg] at this
  omega

/-- A map write leaves every register outside the pair. -/
theorem Block.getX_setMap_ne {w : Nat} (b : Block w) {k : MapNum} {q : RegNum} (m : AffineMap w)
    (hm : q ≠ mulReg k) (ha : q ≠ addReg k) : (b.setMap k m).getX q = b.getX q := by
  simp only [Block.setMap]
  rw [Block.getX_setX_ne _ _ ha, Block.getX_setX_ne _ _ hm]

/-! ## State checks -/

/-- With a parameter set selected the check passes. -/
theorem Block.needParams_valid {w : Nat} {b : Block w} (h : b.pvalid = true) (i : Instr) (e : Block w) :
    b.needParams i e = e := by
  simp [Block.needParams, h]

/-- With none selected the check records NO_VARIANT and the effect is lost. -/
theorem Block.needParams_invalid {w : Nat} {b : Block w} (h : b.pvalid = false) (i : Instr) (e : Block w) :
    b.needParams i e = b.raise .noVariant (encode i) := by
  simp [Block.needParams, h]

theorem Block.needRadix_present {w : Nat} (b : Block w) {c : Config} (h : c.rtPresent = true) (i : Instr) (e : Block w) :
    b.needRadix c i e = e := by
  simp [Block.needRadix, h]

theorem Block.needRadix_absent {w : Nat} (b : Block w) {c : Config} (h : c.rtPresent = false) (i : Instr)
    (e : Block w) : b.needRadix c i e = b.raise .illegalOpcode (encode i) := by
  simp [Block.needRadix, h]

/-! ## Tables on demand -/

/-- `EnsureDT` stores the tables its command then reads, and changes nothing else. -/
theorem Block.ensureDT_eq {w : Nat} (b : Block w) : b.ensureDT = { b with dt := some b.doubling } := by
  rcases b with ⟨x, p, pv, var, dt, rt, di, dout, f, fc⟩
  cases dt <;> rfl

/-- Building the radix tables stores both tables and changes nothing else. -/
theorem Block.buildRT_eq {w : Nat} (b : Block w) :
    b.buildRT = { b with dt := some b.doubling, rt := some (radixTables b.doubling) } := by
  simp only [Block.buildRT, Block.ensureDT_eq]

/-- `EnsureRT` with valid radix tables does nothing. -/
theorem Block.ensureRT_valid {w : Nat} {b : Block w} {t : BothWays (RadixTable w)} (h : b.rt = some t) :
    b.ensureRT = b := by
  simp [Block.ensureRT, h]

/-- `EnsureRT` without them stores both tables and changes nothing else. -/
theorem Block.ensureRT_invalid {w : Nat} {b : Block w} (h : b.rt = none) :
    b.ensureRT = { b with dt := some b.doubling, rt := some b.radix } := by
  simp [Block.ensureRT, h, Block.buildRT_eq, Block.radix]

/-- After `EnsureRT` the stored radix tables are the ones the command reads. -/
theorem Block.ensureRT_rt {w : Nat} (b : Block w) : b.ensureRT.rt = some b.radix := by
  rcases h : b.rt with _ | t
  · rw [Block.ensureRT_invalid h]
  · rw [Block.ensureRT_valid h, h]; simp [Block.radix, h]

@[simp] theorem Block.ensureDT_x {w : Nat} (b : Block w) : b.ensureDT.x = b.x := by simp [Block.ensureDT_eq]
@[simp] theorem Block.ensureDT_p {w : Nat} (b : Block w) : b.ensureDT.p = b.p := by simp [Block.ensureDT_eq]
@[simp] theorem Block.ensureDT_pvalid {w : Nat} (b : Block w) : b.ensureDT.pvalid = b.pvalid := by simp [Block.ensureDT_eq]
@[simp] theorem Block.ensureDT_var {w : Nat} (b : Block w) : b.ensureDT.var = b.var := by simp [Block.ensureDT_eq]
@[simp] theorem Block.ensureDT_rt {w : Nat} (b : Block w) : b.ensureDT.rt = b.rt := by simp [Block.ensureDT_eq]
@[simp] theorem Block.ensureDT_dataIn {w : Nat} (b : Block w) : b.ensureDT.dataIn = b.dataIn := by simp [Block.ensureDT_eq]
@[simp] theorem Block.ensureDT_dataOut {w : Nat} (b : Block w) : b.ensureDT.dataOut = b.dataOut := by simp [Block.ensureDT_eq]
@[simp] theorem Block.ensureDT_fault {w : Nat} (b : Block w) : b.ensureDT.fault = b.fault := by simp [Block.ensureDT_eq]
@[simp] theorem Block.ensureDT_fcmd {w : Nat} (b : Block w) : b.ensureDT.fcmd = b.fcmd := by simp [Block.ensureDT_eq]

@[simp] theorem Block.ensureDT_dt {w : Nat} (b : Block w) : b.ensureDT.dt = some b.doubling := by simp [Block.ensureDT_eq]

@[simp] theorem Block.ensureRT_x {w : Nat} (b : Block w) : b.ensureRT.x = b.x := by
  rcases h : b.rt with _ | t
  · rw [Block.ensureRT_invalid h]
  · rw [Block.ensureRT_valid h]
@[simp] theorem Block.ensureRT_p {w : Nat} (b : Block w) : b.ensureRT.p = b.p := by
  rcases h : b.rt with _ | t
  · rw [Block.ensureRT_invalid h]
  · rw [Block.ensureRT_valid h]
@[simp] theorem Block.ensureRT_pvalid {w : Nat} (b : Block w) : b.ensureRT.pvalid = b.pvalid := by
  rcases h : b.rt with _ | t
  · rw [Block.ensureRT_invalid h]
  · rw [Block.ensureRT_valid h]
@[simp] theorem Block.ensureRT_var {w : Nat} (b : Block w) : b.ensureRT.var = b.var := by
  rcases h : b.rt with _ | t
  · rw [Block.ensureRT_invalid h]
  · rw [Block.ensureRT_valid h]
@[simp] theorem Block.ensureRT_dataIn {w : Nat} (b : Block w) : b.ensureRT.dataIn = b.dataIn := by
  rcases h : b.rt with _ | t
  · rw [Block.ensureRT_invalid h]
  · rw [Block.ensureRT_valid h]
@[simp] theorem Block.ensureRT_dataOut {w : Nat} (b : Block w) : b.ensureRT.dataOut = b.dataOut := by
  rcases h : b.rt with _ | t
  · rw [Block.ensureRT_invalid h]
  · rw [Block.ensureRT_valid h]
@[simp] theorem Block.ensureRT_fault {w : Nat} (b : Block w) : b.ensureRT.fault = b.fault := by
  rcases h : b.rt with _ | t
  · rw [Block.ensureRT_invalid h]
  · rw [Block.ensureRT_valid h]
@[simp] theorem Block.ensureRT_fcmd {w : Nat} (b : Block w) : b.ensureRT.fcmd = b.fcmd := by
  rcases h : b.rt with _ | t
  · rw [Block.ensureRT_invalid h]
  · rw [Block.ensureRT_valid h]

/-! ## Jumps -/

/-- A doubling jump writes one register and leaves the tables it read valid. -/
theorem Block.jumpByDoubling_eq {w : Nat} (b : Block w) (d : Dir) (xd xs xn : RegNum) :
    b.jumpByDoubling d xd xs xn =
      { b with x := b.x.set xd.val (jumpD (b.doubling.get d) (b.getX xs) (b.getX xn)), dt := some b.doubling } := by
  simp only [Block.jumpByDoubling, Block.ensureDT_eq]
  rfl

/-- A radix jump writes one register after `EnsureRT`. -/
theorem Block.jumpByRadix_eq {w : Nat} (b : Block w) (d : Dir) (xd xs xn : RegNum) :
    b.jumpByRadix d xd xs xn =
      { b.ensureRT with x := b.x.set xd.val (jumpR (b.radix.get d) (b.getX xs) (b.getX xn)) } := by
  simp only [Block.jumpByRadix, Block.setX, Block.ensureRT_x]

/-! ## Commands, accesses and inputs: what each can do -/

/-- `Execute(w)` records a decoding fault or runs the decoded command. -/
theorem execute_cases (w : Command) (s : State) :
    (∃ c, decode s.cfg w = .error c ∧ execute w s = .next { s with blk := s.blk.raise c w }) ∨
      ∃ i, decode s.cfg w = .ok i ∧ execute w s = exec i s := by
  cases h : decode s.cfg w with
  | error c => exact .inl ⟨c, rfl, by simp [execute, h, State.raise, State.commit]⟩
  | ok i => exact .inr ⟨i, rfl, by simp [execute, h]⟩

/-- A CMD write is discarded while FAULT = 1 and executed otherwise. -/
theorem writeCmd_cases (w : Command) (s : State) :
    (s.blk.fault ≠ none ∧ writeCmd w s = .next (s.accept s.blk)) ∨
      (s.blk.fault = none ∧ writeCmd w s = answerCommand (execute w s)) := by
  rcases h : s.blk.fault with _ | c
  · exact .inr ⟨rfl, by simp [writeCmd, Block.faultBit, h]⟩
  · exact .inl ⟨by simp, by simp [writeCmd, Block.faultBit, h]⟩

/-- A whole-register access has the register's width. -/
theorem wholeReg_bits {w bits : Nat} {reached : Option HostReg} {r : HostReg} (h : wholeReg w reached bits = some r) :
    reached = some r ∧ bits = r.bits w := by
  rcases reached with _ | q
  · simp [wholeReg] at h
  · simp only [wholeReg] at h
    split at h
    · next hb => cases h; exact ⟨rfl, hb⟩
    · cases h

/-- A host access is answered with a bus error, returns a register's value or its bytes, or is a write of an assigned
register with a value of its width. -/
theorem performAccess_cases (a : HostAccess) (s : State) :
    performAccess a s = .next (s.answer .busError) ∨
      (∃ r, performAccess a s = .next (s.answer (.value (readReg r s)))) ∨
      (∃ r, performAccess a s = .next (s.answer (.bytes (readReg r s).slotBytes))) ∨
      ∃ (r : HostReg) (n : Nat) (v : BitVec n), n = r.bits s.cfg.width.bits ∧ performAccess a s = writeReg r v s := by
  cases a with
  | read q bits =>
    rcases h : wholeReg s.cfg.width.bits (hostRegOf q) bits with _ | r
    · exact .inl (by simp [performAccess, h])
    · exact .inr (.inl ⟨r, by simp [performAccess, h]⟩)
  | write q bits v =>
    rcases h : wholeReg s.cfg.width.bits (hostRegOf q) bits with _ | r
    · exact .inl (by simp [performAccess, h])
    · exact .inr (.inr (.inr ⟨r, bits, v, (wholeReg_bits h).2, by simp [performAccess, h]⟩))
  | readBytes o count =>
    rcases h : wholeReg s.cfg.width.bits (slotReg o) (8 * count) with _ | r
    · exact .inl (by simp [performAccess, h])
    · exact .inr (.inr (.inl ⟨r, by simp [performAccess, h]⟩))
  | writeBytes o bytes =>
    rcases h : wholeReg s.cfg.width.bits (slotReg o) (8 * bytes.length) with _ | r
    · exact .inl (by simp [performAccess, h])
    · exact .inr (.inr (.inr ⟨r, _, slotValue _ bytes, (wholeReg_bits h).2, by simp [performAccess, h]⟩))

/-! ## Byte lanes -/

@[simp] theorem HostValue.slotBytes_length (v : HostValue) : v.slotBytes.length = v.bits / 8 := by
  simp [HostValue.slotBytes]

/-- Byte `k` of a slot is byte `k` of the value. -/
@[simp] theorem HostValue.slotBytes_getElem (v : HostValue) (k : Nat) (h : k < v.slotBytes.length) :
    v.slotBytes[k] = byteOf v.value k := by
  simp [HostValue.slotBytes]

/-- Bit `8k + j` of a slot's value is bit `j` of byte `k`. -/
theorem slotValue_getLsbD (n : Nat) (bytes : List Byte) (k j : Nat) (hj : j < 8) (h : 8 * k + j < n) :
    (slotValue n bytes).getLsbD (8 * k + j) = (bytes.getD k 0).getLsbD j := by
  induction bytes generalizing k with
  | nil => simp [slotValue]
  | cons b rest ih =>
    cases k with
    | zero => simp [slotValue, hj, show j < n by omega]
    | succ k =>
      have e : 8 * (k + 1) + j - 8 = 8 * k + j := by omega
      have hb : b.getLsbD (8 * (k + 1) + j) = false := BitVec.getLsbD_of_ge _ _ (by omega)
      have rest_bit := ih k (by omega)
      rw [BitVec.getLsbD_eq_getElem (by omega)] at rest_bit
      simp [slotValue, h, e, hb, show ¬ 8 * (k + 1) + j < 8 by omega, rest_bit]

/-- Byte `k` of a slot's value is byte `k` of the slot. -/
theorem byteOf_slotValue {n k : Nat} (bytes : List Byte) (h : 8 * k + 8 ≤ n) :
    byteOf (slotValue n bytes) k = bytes.getD k 0 := by
  ext j hj
  simp only [byteOf, BitVec.getElem_extractLsb', slotValue_getLsbD n bytes k j hj (by omega)]
  exact BitVec.getLsbD_eq_getElem hj

end Sys2Proof.Machine
end

