-- ==== Sys2Proof/Laws/PerInstr.lean ====
section
/-! SUPPORT. Statements about every command as syntax, one lemma for each constructor. -/

namespace Sys2Proof.Laws.EncodeMatchesRow

/-- The word of a command has its row's opcode and matches its row's mask (30_encoding.md R92, R94). -/
def Statement (i : Instr) : Prop :=
  opField (encode i) = (opOf i).code ∧ encode i &&& (opOf i).mask = (opOf i).pattern

/-- A word whose masked fields vanish matches a row with that mask. -/
theorem of_fields (op : Op) (rd rs1 rs2 : BitVec 4) (imm : BitVec 12) (m1 m2 m3 : BitVec 4) (m4 : BitVec 12)
    (hm : op.mask = (0xFF : BitVec 8) ++ m1 ++ m2 ++ m3 ++ m4) (h1 : rd &&& m1 = 0) (h2 : rs1 &&& m2 = 0)
    (h3 : rs2 &&& m3 = 0) (h4 : imm &&& m4 = 0) :
    opField (commandWord op rd rs1 rs2 imm) = op.code ∧ commandWord op rd rs1 rs2 imm &&& op.mask = op.pattern := by
  refine ⟨opField_commandWord .., ?_⟩
  rw [hm, commandWord_and, h1, h2, h3, h4]
  cases op <;> rfl

theorem nop : Statement .nop :=
  of_fields .nop _ _ _ _ 0xF 0xF 0xF 0xFFF rfl (by simp) (by simp) (by simp) (by simp)

theorem vsel (code : BitVec 12) : Statement (.vsel code) :=
  of_fields .vsel _ _ _ _ 0xF 0xF 0xF 0x0 rfl (by simp) (by simp) (by simp) (by simp)

theorem dtb : Statement .dtb :=
  of_fields .dtb _ _ _ _ 0xF 0xF 0xF 0xFFF rfl (by simp) (by simp) (by simp) (by simp)

theorem rtb : Statement .rtb :=
  of_fields .rtb _ _ _ _ 0xF 0xF 0xF 0xFFF rfl (by simp) (by simp) (by simp) (by simp)

theorem ldx (xd : RegNum) : Statement (.ldx xd) :=
  of_fields .ldx _ _ _ _ 0x0 0xF 0xF 0xFFF rfl (by simp) (by simp) (by simp) (by simp)

theorem rdx (xs : RegNum) : Statement (.rdx xs) :=
  of_fields .rdx _ _ _ _ 0xF 0x0 0xF 0xFFF rfl (by simp) (by simp) (by simp) (by simp)

theorem mov (xd : RegNum) (xs : RegNum) : Statement (.mov xd xs) :=
  of_fields .mov _ _ _ _ 0x0 0x0 0xF 0xFFF rfl (by simp) (by simp) (by simp) (by simp)

theorem stf (xd : RegNum) (xs : RegNum) : Statement (.stf xd xs) :=
  of_fields .stf _ _ _ _ 0x0 0x0 0xF 0xFFF rfl (by simp) (by simp) (by simp) (by simp)

theorem stb (xd : RegNum) (xs : RegNum) : Statement (.stb xd xs) :=
  of_fields .stb _ _ _ _ 0x0 0x0 0xF 0xFFF rfl (by simp) (by simp) (by simp) (by simp)

theorem jdf (xd : RegNum) (xs : RegNum) (xn : RegNum) : Statement (.jdf xd xs xn) :=
  of_fields .jdf _ _ _ _ 0x0 0x0 0x0 0xFFF rfl (by simp) (by simp) (by simp) (by simp)

theorem jdb (xd : RegNum) (xs : RegNum) (xn : RegNum) : Statement (.jdb xd xs xn) :=
  of_fields .jdb _ _ _ _ 0x0 0x0 0x0 0xFFF rfl (by simp) (by simp) (by simp) (by simp)

theorem jrf (xd : RegNum) (xs : RegNum) (xn : RegNum) : Statement (.jrf xd xs xn) :=
  of_fields .jrf _ _ _ _ 0x0 0x0 0x0 0xFFF rfl (by simp) (by simp) (by simp) (by simp)

theorem jrb (xd : RegNum) (xs : RegNum) (xn : RegNum) : Statement (.jrb xd xs xn) :=
  of_fields .jrb _ _ _ _ 0x0 0x0 0x0 0xFFF rfl (by simp) (by simp) (by simp) (by simp)

theorem gix (xd : RegNum) (xs : RegNum) : Statement (.gix xd xs) :=
  of_fields .gix _ _ _ _ 0x0 0x0 0xF 0xFFF rfl (by simp) (by simp) (by simp) (by simp)

theorem gixr (xd : RegNum) (xs : RegNum) (xo : RegNum) : Statement (.gixr xd xs xo) :=
  of_fields .gixr _ _ _ _ 0x0 0x0 0x0 0xFFF rfl (by simp) (by simp) (by simp) (by simp)

theorem mcmp (md : MapNum) (ms1 : MapNum) (ms2 : MapNum) : Statement (.mcmp md ms1 ms2) :=
  of_fields .mcmp _ _ _ _ 0x8 0x8 0x8 0xFFF rfl (by simp) (by simp) (by simp) (by simp)

theorem mapp (xd : RegNum) (ms1 : MapNum) (xs : RegNum) : Statement (.mapp xd ms1 xs) :=
  of_fields .mapp _ _ _ _ 0x0 0x8 0x0 0xFFF rfl (by simp) (by simp) (by simp) (by simp)

theorem msq (md : MapNum) (ms1 : MapNum) : Statement (.msq md ms1) :=
  of_fields .msq _ _ _ _ 0x8 0x8 0xF 0xFFF rfl (by simp) (by simp) (by simp) (by simp)

theorem mbase (md : MapNum) (d : Dir) : Statement (.mbase md d) :=
  of_fields .mbase _ _ _ _ 0x8 0xF 0xF 0xFFE rfl (by simp) (by simp) (by simp) (dirImm_and_mbase _)

theorem mdt (md : MapNum) (d : Dir) (i : BitVec 7) : Statement (.mdt md d i) :=
  of_fields .mdt _ _ _ _ 0x8 0xF 0xF 0xF00 rfl (by simp) (by simp) (by simp) (dirImm_and_mdt _ _)

theorem mrt (md : MapNum) (d : Dir) (p : BitVec 3) (v : BitVec 8) : Statement (.mrt md d p v) :=
  of_fields .mrt _ _ _ _ 0x8 0xF 0xF 0x0 rfl (by simp) (by simp) (by simp) (by simp)

theorem mid (md : MapNum) : Statement (.mid md) :=
  of_fields .mid _ _ _ _ 0x8 0xF 0xF 0xFFF rfl (by simp) (by simp) (by simp) (by simp)

end Sys2Proof.Laws.EncodeMatchesRow
end

