-- ==== Sys2Proof/Laws/Step.lean ====
section
/-! SUPPORT. What one step does, by what the host has issued. -/

namespace Sys2Proof.Machine

/-- The step at an access. -/
theorem step_access {s : State} {a : HostAccess} {rest : List HostInput} (h : s.pending = .access a :: rest) :
    step s = performAccess a { s with pending := rest } := by
  simp [step, performNext, h, performInput]

/-- The step at a reset. -/
theorem step_reset {s : State} {rest : List HostInput} (h : s.pending = .reset :: rest) :
    step s = .next (State.resetBlock { s with pending := rest } .silent) := by
  simp [step, performNext, h, performInput]

/-- The step at a reset asserted during an access. -/
theorem step_resetDuring {s : State} {a : HostAccess} {rest : List HostInput}
    (h : s.pending = .resetDuring a :: rest) :
    step s = .next (State.resetBlock { s with pending := rest } .interruptedByReset) := by
  simp [step, performNext, h, performInput]

/-- The step at a CMD write. -/
theorem step_cmdWrite {s : State} {w : Command} {rest : List HostInput} (h : s.pending = cmdWrite w :: rest) :
    step s = writeCmd w { s with pending := rest } := by
  rw [step_access h]
  simp [performAccess, wholeReg, hostRegOf, HostReg.bits, writeReg]

end Sys2Proof.Machine
end

