-- ==== Sys2Proof/Machine/Assembler.lean ====
section
/-! DEFINITION. The host's side of a program: the assembler's operand order (30_encoding.md R97), the text of a line and
how a line is read, and the pseudo-instructions (R98). A line becomes the host inputs it stands for. No step uses any of
it (log 14). -/

namespace Sys2Proof.Machine

/-- The names VSEL accepts for codes 0 to 4 (R97). -/
inductive VariantName where
  | standardLCG
  | gcLCG
  | staticLCG
  | reverseStdLCG
  | lcg64
deriving DecidableEq, Repr

/-- The code a variant name stands for (R97). -/
def VariantName.code : VariantName → BitVec 12
  | .standardLCG => 0
  | .gcLCG => 1
  | .staticLCG => 2
  | .reverseStdLCG => 3
  | .lcg64 => 4

/-- An operand as written: `x0` to `x15`, `m0` to `m7`, `f` or `b`, a number, a variant name (R97). -/
inductive AsmOperand where
  | reg (r : RegNum)
  | map (k : MapNum)
  | dir (d : Dir)
  | num (n : Nat)
  | variant (v : VariantName)
deriving DecidableEq, Repr

/-- A number that fits an immediate of `w` bits; immediates are never sign-extended or scaled (R93). -/
def immediate (w n : Nat) : Option (BitVec w) := if n < 2 ^ w then some (BitVec.ofNat w n) else none

/-- The command of a mnemonic and its operands in their order (R97). -/
def assemble (op : Op) (args : List AsmOperand) : Option Instr :=
  match op with
  | .nop => match args with | [] => some .nop | _ => none
  | .vsel =>
    match args with
    | [.num n] => (immediate 12 n).map .vsel
    | [.variant v] => some (.vsel v.code)
    | _ => none
  | .dtb => match args with | [] => some .dtb | _ => none
  | .rtb => match args with | [] => some .rtb | _ => none
  | .ldx => match args with | [.reg xd] => some (.ldx xd) | _ => none
  | .rdx => match args with | [.reg xs] => some (.rdx xs) | _ => none
  | .mov => match args with | [.reg xd, .reg xs] => some (.mov xd xs) | _ => none
  | .stf => match args with | [.reg xd, .reg xs] => some (.stf xd xs) | _ => none
  | .stb => match args with | [.reg xd, .reg xs] => some (.stb xd xs) | _ => none
  | .jdf => match args with | [.reg xd, .reg xs, .reg xn] => some (.jdf xd xs xn) | _ => none
  | .jdb => match args with | [.reg xd, .reg xs, .reg xn] => some (.jdb xd xs xn) | _ => none
  | .jrf => match args with | [.reg xd, .reg xs, .reg xn] => some (.jrf xd xs xn) | _ => none
  | .jrb => match args with | [.reg xd, .reg xs, .reg xn] => some (.jrb xd xs xn) | _ => none
  | .gix => match args with | [.reg xd, .reg xs] => some (.gix xd xs) | _ => none
  | .gixr => match args with | [.reg xd, .reg xs, .reg xo] => some (.gixr xd xs xo) | _ => none
  | .mcmp => match args with | [.map md, .map m1, .map m2] => some (.mcmp md m1 m2) | _ => none
  | .mapp => match args with | [.reg xd, .map ms, .reg xs] => some (.mapp xd ms xs) | _ => none
  | .msq => match args with | [.map md, .map ms] => some (.msq md ms) | _ => none
  | .mbase => match args with | [.map md, .dir d] => some (.mbase md d) | _ => none
  | .mdt => match args with | [.map md, .dir d, .num i] => (immediate 7 i).map (.mdt md d) | _ => none
  | .mrt =>
    match args with
    | [.map md, .dir d, .num p, .num v] =>
      match immediate 3 p, immediate 8 v with
      | some p, some v => some (.mrt md d p v)
      | _, _ => none
    | _ => none
  | .mid => match args with | [.map md] => some (.mid md) | _ => none

/-- Mnemonics in lower case (R97). -/
def mnemonicText : Op → String
  | .nop => "nop" | .vsel => "vsel" | .dtb => "dtb" | .rtb => "rtb" | .ldx => "ldx" | .rdx => "rdx" | .mov => "mov"
  | .stf => "stf" | .stb => "stb" | .jdf => "jdf" | .jdb => "jdb" | .jrf => "jrf" | .jrb => "jrb"
  | .gix => "gix" | .gixr => "gixr"
  | .mcmp => "mcmp" | .mapp => "mapp" | .msq => "msq" | .mbase => "mbase" | .mdt => "mdt" | .mrt => "mrt" | .mid => "mid"

/-- Variant names (R97). -/
def VariantName.text : VariantName → String
  | .standardLCG => "StandardLCG"
  | .gcLCG => "GCLCG"
  | .staticLCG => "StaticLCG"
  | .reverseStdLCG => "ReverseStdLCG"
  | .lcg64 => "LCG64"

/-- An operand's text, numbers in decimal (R97). -/
def AsmOperand.text : AsmOperand → String
  | .reg r => "x" ++ toString r.val
  | .map k => "m" ++ toString k.val
  | .dir .forward => "f"
  | .dir .backward => "b"
  | .num n => toString n
  | .variant v => v.text

/-- The text of a command's line: mnemonic, then operands separated by commas (R97). -/
def lineText (op : Op) : List AsmOperand → String
  | [] => mnemonicText op
  | a :: rest => rest.foldl (fun t b => t ++ ", " ++ b.text) (mnemonicText op ++ " " ++ a.text)

/-! ## Host actions and pseudo-instructions (R98) -/

/-- A line of a program: a command, a host action, or a pseudo-instruction. -/
inductive AsmLine where
  | command (op : Op) (args : List AsmOperand)
  | hwrite (r : HostReg) (value : Nat)
  | hread (r : HostReg)
  | li (xd : RegNum) (value : Nat)
  | out (xs : RegNum)
  | clrf
  | jf (xd xs xn : RegNum)
  | jb (xd xs xn : RegNum)
  | adv (xd xs : RegNum)
  | back (xd xs : RegNum)
deriving DecidableEq, Repr

/-- `hread REG`: a read of the whole register. -/
def hreadInput (c : Config) (r : HostReg) : HostInput := .access (.read r.number (r.bits c.width.bits))

/-- `hwrite REG, value`: a write of the whole register; the value has the register's width (44_register_transfer.md
R233). -/
def hwriteInput (c : Config) (r : HostReg) (value : Nat) : Option HostInput :=
  (immediate (r.bits c.width.bits) value).map fun v => .access (.write r.number (r.bits c.width.bits) v)

/-- A command's CMD write. -/
def commandInput (i : Instr) : HostInput := cmdWrite (encode i)

/-- The host inputs a line stands for on an instance (R97, R98). -/
def AsmLine.inputs (c : Config) : AsmLine → Option (List HostInput)
  | .command op args => (assemble op args).map fun i => [commandInput i]
  | .hwrite r v => (hwriteInput c r v).map fun i => [i]
  | .hread r => some [hreadInput c r]
  | .li xd v => (hwriteInput c .dataIn v).map fun i => [i, commandInput (.ldx xd)]
  | .out xs => some [commandInput (.rdx xs), hreadInput c .dataOut]
  | .clrf => (hwriteInput c .status 1).map fun i => [i]
  | .jf xd xs xn => some [commandInput (if c.rtPresent then .jrf xd xs xn else .jdf xd xs xn)]
  | .jb xd xs xn => some [commandInput (if c.rtPresent then .jrb xd xs xn else .jdb xd xs xn)]
  | .adv xd xs => some [commandInput (.stf xd xs)]
  | .back xd xs => some [commandInput (.stb xd xs)]

/-! ## Reading a line (R97) -/

/-- The pieces of a text between separators. -/
def pieces (sep : Char) : List Char → List (List Char)
  | [] => [[]]
  | c :: cs =>
    if c = sep then [] :: pieces sep cs
    else
      match pieces sep cs with
      | [] => [[c]]
      | p :: ps => (c :: p) :: ps

/-- A text without the spaces around it. -/
def trimmed (t : List Char) : List Char :=
  ((t.dropWhile (· = ' ')).reverse.dropWhile (· = ' ')).reverse

/-- The value of a digit. -/
def digitValue (c : Char) : Option Nat :=
  if '0' ≤ c ∧ c ≤ '9' then some (c.toNat - '0'.toNat)
  else if 'a' ≤ c ∧ c ≤ 'f' then some (c.toNat - 'a'.toNat + 10)
  else if 'A' ≤ c ∧ c ≤ 'F' then some (c.toNat - 'A'.toNat + 10)
  else none

/-- The value of a digit string after a value already read. -/
def digitsValue (base : Nat) : Nat → List Char → Option Nat
  | n, [] => some n
  | n, c :: cs =>
    match digitValue c with
    | some d => if d < base then digitsValue base (base * n + d) cs else none
    | none => none

/-- A number in decimal or, after `0x`, in hexadecimal. -/
def readNumber : List Char → Option Nat
  | [] => none
  | ['0', 'x'] => none
  | '0' :: 'x' :: ds => digitsValue 16 0 ds
  | ds => digitsValue 10 0 ds

/-- The operands that have names. -/
def namedOperands : List AsmOperand :=
  (List.finRange 16).map .reg ++ (List.finRange 8).map .map ++ [.dir .forward, .dir .backward] ++
    [.variant .standardLCG, .variant .gcLCG, .variant .staticLCG, .variant .reverseStdLCG, .variant .lcg64]

/-- One operand: a name, or a number. -/
def readOperand (t : List Char) : Option AsmOperand :=
  match namedOperands.find? fun o => o.text.toList = t with
  | some o => some o
  | none => (readNumber t).map .num

/-- The names of the host registers (10_state.md R30). -/
def hostRegText : HostReg → String
  | .cmd => "CMD"
  | .dataIn => "DATA_IN"
  | .dataOut => "DATA_OUT"
  | .status => "STATUS"
  | .fcmd => "FCMD"
  | .config => "CONFIG"

/-- A host register's name. -/
def readHostReg (t : List Char) : Option HostReg :=
  [HostReg.cmd, .dataIn, .dataOut, .status, .fcmd, .config].find? fun r => (hostRegText r).toList = t

/-- The operands of a line, if each can be read. -/
def readOperands : List (List Char) → Option (List AsmOperand)
  | [] => some []
  | t :: ts =>
    match readOperand t, readOperands ts with
    | some o, some os => some (o :: os)
    | _, _ => none

/-- The lines that are not commands: host actions and pseudo-instructions. -/
def readHostLine (word : List Char) (args : List (List Char)) : Option AsmLine :=
  if word = "hwrite".toList then
    match args with
    | [r, v] =>
      match readHostReg r, readNumber v with
      | some r, some v => some (.hwrite r v)
      | _, _ => none
    | _ => none
  else if word = "hread".toList then
    match args with
    | [r] => (readHostReg r).map .hread
    | _ => none
  else
    match readOperands args with
    | some [.reg xd, .num v] => if word = "li".toList then some (.li xd v) else none
    | some [.reg xs] => if word = "out".toList then some (.out xs) else none
    | some [] => if word = "clrf".toList then some .clrf else none
    | some [.reg xd, .reg xs, .reg xn] =>
      if word = "jf".toList then some (.jf xd xs xn)
      else if word = "jb".toList then some (.jb xd xs xn)
      else none
    | some [.reg xd, .reg xs] =>
      if word = "adv".toList then some (.adv xd xs)
      else if word = "back".toList then some (.back xd xs)
      else none
    | _ => none

/-- A line: a mnemonic, then operands separated by commas. -/
def readLine (line : String) : Option AsmLine :=
  let t := trimmed line.toList
  let word := t.takeWhile (· ≠ ' ')
  let rest := trimmed (t.dropWhile (· ≠ ' '))
  let args := if rest = [] then [] else (pieces ',' rest).map trimmed
  match Op.all.find? fun op => (mnemonicText op).toList = word with
  | some op => (readOperands args).map (.command op)
  | none => readHostLine word args

end Sys2Proof.Machine
end

