-- ==== Sys2Proof/Tests/Slice0.lean ====
section
/-! SUPPORT. Tests of the model: expected values are those of 95_test_vectors.md or of the examples of the rules; and for
each statement with hypotheses a named witness that meets them. -/

-- The tests evaluated by the kernel run one after another: run at once, each would hold a thread of its own.
set_option Elab.async false

open Sys2Proof Sys2Proof.Machine

namespace Sys2Proof.Tests

/-! ## WellFormed: an ill-formed command for each check -/

def noRadix : Config := { Config.reference with rtPresent := false }
def withReverse : Config := { Config.reference with revstdPresent := true }

theorem test_wf_rtb_needs_radix : Instr.rtb.wellFormed noRadix = false := by decide
theorem test_wf_jrf_needs_radix : (Instr.jrf 3 1 2).wellFormed noRadix = false := by decide
theorem test_wf_jrb_needs_radix : (Instr.jrb 3 1 2).wellFormed noRadix = false := by decide
theorem test_wf_mrt_needs_radix : (Instr.mrt 0 .forward 0 3).wellFormed noRadix = false := by decide
theorem test_wf_mdt_index : (Instr.mdt 0 .forward 32).wellFormed Config.reference = false ∧
    (Instr.mdt 0 .forward 31).wellFormed Config.reference = true ∧
    (Instr.mdt 0 .forward 64).wellFormed Config.reference64 = false := by decide
theorem test_wf_mrt_position : (Instr.mrt 0 .forward 4 0).wellFormed Config.reference = false ∧
    (Instr.mrt 0 .forward 3 0).wellFormed Config.reference = true := by decide

/-! ## Decoding: one word of every row, written out from 30_encoding.md R94 (OP, RD, RS1, RS2, IMM) -/

theorem test_decode_nop : decode Config.reference 0b00000000_0000_0000_0000_000000000000 = .ok .nop := by decide
theorem test_decode_vsel : decode Config.reference 0b00000001_0000_0000_0000_100000000010 = .ok (.vsel 0x802) := by decide
theorem test_decode_dtb : decode Config.reference 0b00000010_0000_0000_0000_000000000000 = .ok .dtb := by decide
theorem test_decode_rtb : decode Config.reference 0b00000011_0000_0000_0000_000000000000 = .ok .rtb := by decide
theorem test_decode_ldx : decode Config.reference 0b00000100_1010_0000_0000_000000000000 = .ok (.ldx 10) := by decide
theorem test_decode_rdx : decode Config.reference 0b00000101_0000_0100_0000_000000000000 = .ok (.rdx 4) := by decide
theorem test_decode_mov : decode Config.reference 0b00000110_0111_0001_0000_000000000000 = .ok (.mov 7 1) := by decide
theorem test_decode_stf : decode Config.reference 0b00010000_0101_0001_0000_000000000000 = .ok (.stf 5 1) := by decide
theorem test_decode_stb : decode Config.reference 0b00010001_0010_0001_0000_000000000000 = .ok (.stb 2 1) := by decide
theorem test_decode_jdf : decode Config.reference 0b00010010_0011_0001_0010_000000000000 = .ok (.jdf 3 1 2) := by decide
theorem test_decode_jdb : decode Config.reference 0b00010011_0011_0001_0010_000000000000 = .ok (.jdb 3 1 2) := by decide
theorem test_decode_jrf : decode Config.reference 0b00010100_0011_0001_0010_000000000000 = .ok (.jrf 3 1 2) := by decide
theorem test_decode_jrb : decode Config.reference 0b00010101_0110_0011_0010_000000000000 = .ok (.jrb 6 3 2) := by decide
theorem test_decode_gix : decode Config.reference 0b00100000_0100_0011_0000_000000000000 = .ok (.gix 4 3) := by decide
theorem test_decode_gixr : decode Config.reference 0b00100001_0101_0011_0001_000000000000 = .ok (.gixr 5 3 1) := by decide
theorem test_decode_mcmp : decode Config.reference 0b00110000_0010_0000_0001_000000000000 = .ok (.mcmp 2 0 1) := by decide
theorem test_decode_mapp : decode Config.reference 0b00110001_1011_0011_1010_000000000000 = .ok (.mapp 11 3 10) := by decide
theorem test_decode_msq : decode Config.reference 0b00110010_0011_0000_0000_000000000000 = .ok (.msq 3 0) := by decide
theorem test_decode_mbase : decode Config.reference 0b00110011_0001_0000_0000_000000000001 = .ok (.mbase 1 .backward) := by decide
theorem test_decode_mdt : decode Config.reference 0b00110100_0000_0000_0000_000000111111 = .ok (.mdt 0 .backward 31) := by decide
theorem test_decode_mrt : decode Config.reference 0b00110101_0001_0000_0000_111111110111 = .ok (.mrt 1 .backward 3 0xFF) := by decide
theorem test_decode_mid : decode Config.reference 0b00110110_0111_0000_0000_000000000000 = .ok (.mid 7) := by decide

/-- The words of 95_test_vectors.md section 6.4 that fault in decoding, on `AMC-W32`. -/
theorem test_decode_faults :
    decode Config.reference 0xFF000000 = .error .illegalOpcode ∧
    decode Config.reference 0x07000000 = .error .illegalOpcode ∧
    decode noRadix 0x14312000 = .error .illegalOpcode ∧
    decode Config.reference 0x12312001 = .error .illegalOperand ∧
    decode Config.reference 0x30800000 = .error .illegalOperand ∧
    decode Config.reference 0x00000001 = .error .illegalOperand ∧
    decode Config.reference 0x34000100 = .error .illegalOperand ∧
    decode Config.reference 0x34000040 = .error .indexRange ∧
    decode Config.reference 0x35000008 = .error .indexRange ∧
    decode Config.reference64 0x34000080 = .error .indexRange := by decide

theorem test_encode_mrt : encode (.mrt 1 .backward 3 0xFF) = 0x35100FF7 := by decide
theorem test_table_word : decodeTableWord 32 0x12312000 = some (.jdf 3 1 2) := by decide

/-! ## One step of every command -/

/-- A machine just reset, with a variant selected (none for an unsupported code). -/
def selected (c : Config) (code : Nat) : State :=
  match supportedParams c code with
  | some p => { State.resetOf c with blk := (Block.reset c.width.bits).select p (BitVec.ofNat 12 code) }
  | none => State.resetOf c

/-- A register given a value. -/
def put (r : RegNum) (v : Nat) (s : State) : State := { s with blk := s.blk.setX r (BitVec.ofNat _ v) }

/-- DATA_IN given a value. -/
def putIn (v : Nat) (s : State) : State := { s with blk := { s.blk with dataIn := BitVec.ofNat _ v } }

/-- What is read of a result: nothing if it is not a next state. -/
def seen (f : State → Nat) : Host.Outcome State Fault Refusal → Option Nat
  | .next s => some (f s)
  | .fault _ => none
  | .refused _ => none

def xVal (r : RegNum) (s : State) : Nat := (s.blk.getX r).toNat
def statusVal (s : State) : Nat := s.blk.status.toNat
def fcmdVal (s : State) : Nat := s.blk.fcmd.toNat
def outVal (s : State) : Nat := s.blk.dataOut.toNat

def std : State := selected Config.reference 0
def lcg64 : State := selected Config.reference64 4

theorem test_nop : exec .nop std = .next std := rfl
theorem test_vsel : seen statusVal (exec (.vsel 2) (selected Config.reference 0)) = some 0x2100 := by decide +kernel
theorem test_vsel_unsupported :
    seen statusVal (exec (.vsel 4) State.reset) = some 0x31 ∧
    seen fcmdVal (exec (.vsel 4) State.reset) = some 0x01000004 := by decide +kernel
theorem test_vsel_wrong_width : seen statusVal (exec (.vsel 0) lcg64) = some 0x4131 := by decide +kernel
theorem test_dtb : seen statusVal (exec .dtb std) = some 0x300 := by decide +kernel
theorem test_rtb : seen statusVal (exec .rtb std) = some 0x700 := by decide +kernel
theorem test_ldx : seen (xVal 2) (exec (.ldx 2) (putIn 5 State.reset)) = some 5 := by decide +kernel
theorem test_rdx : seen outVal (exec (.rdx 4) (put 4 5 State.reset)) = some 5 := by decide +kernel
theorem test_mov : seen (xVal 7) (exec (.mov 7 1) (put 1 0xDEADBEEF State.reset)) = some 0xDEADBEEF := by decide +kernel
theorem test_stf_zero : seen (xVal 5) (exec (.stf 5 1) std) = some 0x6073 := by decide +kernel
theorem test_stf_wraps : seen (xVal 1) (exec (.stf 1 1) (put 1 0xFFFFFFFF std)) = some 0xBE3A1206 := by decide +kernel
theorem test_stb : seen (xVal 2) (exec (.stb 2 1) (put 1 0x6073 std)) = some 0 := by decide +kernel
theorem test_stb_lcg64 : seen (xVal 2) (exec (.stb 2 1) lcg64) = some 0x9B1AE6E9A384E6F9 := by decide +kernel
theorem test_jdf : seen (xVal 3) (exec (.jdf 3 1 2) (put 2 0x12345678 (put 1 0xDEADBEEF std))) = some 0x1D0B0387 := by
  decide +kernel
theorem test_jdf_lcg64_all_ones :
    seen (xVal 5) (exec (.jdf 5 0 4) (put 4 0xFFFFFFFFFFFFFFFF lcg64)) = some 0x9B1AE6E9A384E6F9 := by decide +kernel
theorem test_jdb : seen (xVal 3) (exec (.jdb 3 1 2) (put 2 5 (put 1 0xDEADBEEF std))) = some 0xC735FC88 := by decide +kernel
theorem test_jrf : seen (xVal 3) (exec (.jrf 3 1 2) (put 2 0x12345678 (put 1 0xDEADBEEF std))) = some 0x1D0B0387 := by
  decide +kernel
theorem test_jrb : seen (xVal 6) (exec (.jrb 6 3 2) (put 2 0x12345678 (put 3 0x1D0B0387 std))) = some 0xDEADBEEF := by
  decide +kernel
theorem test_gix : seen (xVal 4) (exec (.gix 4 3) (put 3 0x8E425287 std)) = some 5 := by decide +kernel
theorem test_gix_lcg64 : seen (xVal 4) (exec (.gix 4 3) (put 3 0x0123456789ABCDEF lcg64)) = some 0x0C493609E7D517CD := by
  decide +kernel
theorem test_gixr :
    seen (xVal 5) (exec (.gixr 5 3 1) (put 1 0xDEADBEEF (put 3 0x1D0B0387 std))) = some 0x12345678 := by decide +kernel
theorem test_mid : seen (xVal 14) (exec (.mid 7) std) = some 1 ∧ seen (xVal 15) (exec (.mid 7) std) = some 0 := by
  decide +kernel
theorem test_mbase :
    seen (xVal 2) (exec (.mbase 1 .backward) std) = some 0xEEB9EB65 ∧
    seen (xVal 3) (exec (.mbase 1 .backward) std) = some 0x0A3561A1 := by decide +kernel
theorem test_mdt :
    seen (xVal 8) (exec (.mdt 4 .forward 1) std) = some 0xC2A29A69 ∧
    seen (xVal 9) (exec (.mdt 4 .forward 1) std) = some 0xE97E7B6A := by decide +kernel
theorem test_mdt_status : seen statusVal (exec (.mdt 4 .forward 1) std) = some 0x300 := by decide +kernel
theorem test_mrt :
    seen (xVal 2) (exec (.mrt 1 .backward 3 0xFF) std) = some 0xA4000001 ∧
    seen (xVal 3) (exec (.mrt 1 .backward 3 0xFF) std) = some 0x31000000 := by decide +kernel
theorem test_mrt_status : seen statusVal (exec (.mrt 0 .forward 0 3) std) = some 0x700 := by decide +kernel
/-- All operands alias: `m0` composed with itself into itself (95_test_vectors.md section 6.1). -/
theorem test_mcmp_alias :
    seen (xVal 0) (exec (.mcmp 0 0 0) (put 0 0x41C64E6D (put 1 0x6073 State.reset))) = some 0xC2A29A69 ∧
    seen (xVal 1) (exec (.mcmp 0 0 0) (put 0 0x41C64E6D (put 1 0x6073 State.reset))) = some 0xE97E7B6A := by decide +kernel
theorem test_mcmp_order :
    seen (xVal 5) (exec (.mcmp 2 0 1) (put 0 3 (put 1 5 (put 2 7 (put 3 11 State.reset))))) = some 46 := by decide +kernel
theorem test_msq :
    seen (xVal 1) (exec (.msq 0 0) (put 0 0x80000000 (put 1 0x80000000 State.reset))) = some 0x80000000 := by
  decide +kernel
/-- The destination is the map's multiplier and the seed (95_test_vectors.md section 6.1). -/
theorem test_mapp_alias :
    seen (xVal 6) (exec (.mapp 6 3 6) (put 6 0xEE067F11 (put 7 0x31B0DDE4 State.reset))) = some 0x018EBD05 := by
  decide +kernel

/-! ## The host port -/

/-- One input performed by a step. -/
def after (i : HostInput) (s : State) : Host.Outcome State Fault Refusal := step { s with pending := [i] }

theorem test_step_runs_command : seen (xVal 5) (after (cmdWrite 0x10510000) std) = some 0x6073 := by decide +kernel
theorem test_step_no_variant :
    seen statusVal (after (cmdWrite 0x10010000) State.reset) = some 0x41 ∧
    seen fcmdVal (after (cmdWrite 0x10010000) State.reset) = some 0x10010000 := by decide +kernel
theorem test_step_index_before_no_variant : seen statusVal (after (cmdWrite 0x34000040) State.reset) = some 0x51 := by
  decide +kernel
theorem test_step_fetch_word : seen statusVal (step (State.reset.withFetchWord 32 0x01000001)) = some 0x1100 := by
  decide +kernel

/-- A machine with a recorded fault. -/
def faulted : State := { std with blk := std.blk.raise .illegalVariant 0x01000007 }

theorem test_step_discards : seen statusVal (after (cmdWrite 0x06710000) faulted) = some 0x131 := by decide +kernel
theorem test_step_clear_keeps_fcmd :
    seen statusVal (after (.access (.write 3 32 1)) faulted) = some 0x100 ∧
    seen fcmdVal (after (.access (.write 3 32 1)) faulted) = some 0x01000007 := by decide +kernel
theorem test_byte_address : windowOffset { Config.reference with amcBase := 0x1000 } 0x1018 = some 24 ∧
    windowOffset { Config.reference with amcBase := 0x1000 } 0x1080 = none ∧
    slotReg 24 = some .status ∧ slotReg 25 = none := by decide

/-- The bytes of an answer, lowest address first. -/
def bytesSeen : Host.Outcome State Fault Refusal → Option (List Byte)
  | .next { response := .bytes b, .. } => some b
  | _ => none

/-- The word `0x10510000` lies in CMD's slot with its bytes `00 00 51 10`, lowest address first (20_memory.md R60). -/
theorem test_byte_write_little_endian :
    seen (xVal 5) (after (.access (.writeBytes 0 [0x00, 0x00, 0x51, 0x10])) std) = some 0x6073 ∧
    seen (xVal 5) (after (.access (.writeBytes 0 [0x10, 0x51, 0x00, 0x00])) std) = some 0 := by decide +kernel
/-- CONFIG of `AMC-W32` is `0x00070120` (10_state.md R36); part of a register is refused. -/
theorem test_byte_read_little_endian :
    bytesSeen (after (.access (.readBytes 40 4)) State.reset) = some [0x20, 0x01, 0x07, 0x00] ∧
    bytesSeen (after (.access (.readBytes 40 2)) State.reset) = none := by decide +kernel
/-- A command abandoned by a reset leaves the reset values (70_reset_and_hazards.md R292). -/
theorem test_reset_during_command :
    seen (xVal 5) (after (.resetDuring (.write 0 32 0x10510000)) (put 5 7 std)) = some 0 ∧
    seen statusVal (after (.resetDuring (.write 0 32 0x10510000)) (put 5 7 std)) = some 0 := by decide +kernel
theorem test_config : (configWord Config.reference).toNat = 0x00070120 ∧
    (configWord Config.reference64).toNat = 0x00100140 ∧ (configWord noRadix).toNat = 0x00070020 := by decide +kernel

/-! ## Assembler (30_encoding.md R97, R98) -/

theorem test_assemble_mrt : assemble .mrt [.map 0, .dir .forward, .num 0, .num 3] = some (.mrt 0 .forward 0 3) := by decide
theorem test_assemble_name : assemble .vsel [.variant .lcg64] = some (.vsel 4) := by decide
theorem test_jf_expands : AsmLine.inputs Config.reference (.jf 3 1 2) = some [cmdWrite 0x14312000] ∧
    AsmLine.inputs noRadix (.jf 3 1 2) = some [cmdWrite 0x12312000] := by decide +kernel
theorem test_read_mrt : readLine "mrt m1, b, 3, 0xFF" =
    some (.command .mrt [.map 1, .dir .backward, .num 3, .num 255]) := by decide +kernel
theorem test_read_host_line : readLine "hwrite DATA_IN, 0xDEADBEEF" = some (.hwrite .dataIn 0xDEADBEEF) ∧
    readLine "vsel StandardLCG" = some (.command .vsel [.variant .standardLCG]) ∧
    readLine "jf x3, x1, x2" = some (.jf 3 1 2) ∧ readLine "clrf" = some .clrf ∧ readLine "stf x16, x1" = none := by
  decide +kernel
theorem test_line_text : lineText .mdt [.map 4, .dir .forward, .num 1] = "mdt m4, f, 1" := by decide +kernel

/-! ## Witnesses: states and operands that meet the hypotheses of each statement -/

theorem witness_DecodeOfEncode : (Instr.mdt 0 .forward 31).wellFormed Config.reference = true ∧
    (Instr.mrt 0 .backward 3 0).wellFormed Config.reference = true := by decide
theorem witness_EncodeOfDecode : decode Config.reference 0x34100000 = .ok (.mdt 1 .forward 0) := by decide

/-- A machine whose host has issued one input. -/
def issuing (s : State) (i : HostInput) : State := { s with pending := [i] }

theorem witness_StepRunsDecodedCommand :
    (issuing std (cmdWrite 0x10510000)).pending = cmdWrite 0x10510000 :: [] ∧
    (issuing std (cmdWrite 0x10510000)).blk.fault = none ∧
    decode (issuing std (cmdWrite 0x10510000)).cfg 0x10510000 = .ok (.stf 5 1) ∧
    ∃ t, exec (.stf 5 1) { issuing std (cmdWrite 0x10510000) with pending := [] } = .next t :=
  ⟨rfl, rfl, by decide, _, rfl⟩
theorem witness_StepRecordsDecodingFault :
    (issuing std (cmdWrite 0x07000000)).pending = cmdWrite 0x07000000 :: [] ∧
    (issuing std (cmdWrite 0x07000000)).blk.fault = none ∧
    decode (issuing std (cmdWrite 0x07000000)).cfg 0x07000000 = .error .illegalOpcode :=
  ⟨rfl, rfl, by decide⟩
theorem witness_FaultDiscardsCommands :
    (issuing faulted (cmdWrite 0x06710000)).blk.fault = some .illegalVariant ∧
    (issuing faulted (cmdWrite 0x06710000)).pending = cmdWrite 0x06710000 :: [] ∧
    (issuing faulted (.access (.write 1 32 7))).pending =
      .access (.write 1 (issuing faulted (cmdWrite 0)).cfg.width.bits (7 : BitVec 32)) :: [] ∧
    (1 : BitVec 32).getLsbD 0 = true ∧
    (issuing faulted (.access (.read HostReg.status.number 32))).pending =
      .access (.read HostReg.status.number (HostReg.status.bits 32)) :: [] :=
  ⟨rfl, rfl, rfl, by decide, rfl⟩
theorem witness_HostReadStep :
    (issuing std (.access (.read 0 32))).pending = .access (.read 0 32) :: [] ∧
    (issuing std (.access (.read 1 32))).pending =
      .access (.read 1 std.cfg.width.bits) :: [] ∧
    (issuing lcg64 (.access (.read 2 64))).pending =
      .access (.read 2 lcg64.cfg.width.bits) :: [] ∧
    (issuing std (.access (.read 3 32))).pending = .access (.read 3 32) :: [] ∧
    (issuing std (.access (.read 4 32))).pending = .access (.read 4 32) :: [] ∧
    (issuing std (.access (.read 5 32))).pending = .access (.read 5 32) :: [] ∧
    6 ≤ (6 : Fin 16).val ∧ 6 ≤ (15 : Fin 16).val ∧
    (issuing std (.access (.read 6 8))).pending = .access (.read 6 8) :: [] :=
  ⟨rfl, rfl, rfl, rfl, rfl, rfl, by decide, by decide, rfl⟩
theorem witness_HostWriteStep :
    (issuing faulted (cmdWrite 0)).pending = .access (.write 0 32 (0 : BitVec 32)) :: [] ∧
    (issuing faulted (cmdWrite 0)).blk.fault = some .illegalVariant ∧
    (issuing std (cmdWrite 0)).blk.fault = none ∧
    (∃ t, execute 0 { issuing std (cmdWrite 0) with pending := [] } = .next t) ∧
    (issuing lcg64 (.access (.write 1 64 7))).pending =
      .access (.write 1 lcg64.cfg.width.bits (7 : BitVec 64)) :: [] ∧
    (issuing std (.access (.write 2 32 7))).pending =
      .access (.write 2 std.cfg.width.bits (7 : BitVec 32)) :: [] ∧
    (1 : BitVec 32).getLsbD 0 = true ∧ (0xFFFFFFFE : BitVec 32).getLsbD 0 = false ∧
    (issuing std (.access (.write 5 32 7))).pending = .access (.write 5 32 (7 : BitVec 32)) :: [] ∧
    6 ≤ (6 : Fin 16).val ∧ 6 ≤ (15 : Fin 16).val :=
  ⟨rfl, rfl, rfl, ⟨_, rfl⟩, rfl, rfl, by decide, by decide, rfl, by decide, by decide⟩
/-- A reserved number, a wrong width of a 32-bit register, a wrong width of a `W`-bit register; each with the access
issued. -/
theorem witness_RefusedAccessChangesNothing :
    6 ≤ (6 : Fin 16).val ∧ (31 ≠ if (5 : Fin 16) = 1 ∨ (5 : Fin 16) = 2 then std.cfg.width.bits else 32) ∧
    (32 ≠ if (1 : Fin 16) = 1 ∨ (1 : Fin 16) = 2 then lcg64.cfg.width.bits else 32) ∧
    (issuing std (.access (.read 5 31))).pending = .access (.read 5 31) :: [] ∧
    (issuing std (.access (.write 6 32 0))).pending =
      .access (.write 6 32 (0 : BitVec 32)) :: [] :=
  ⟨by decide, by decide, by decide, rfl, rfl⟩
/-- Off the slot base, a reserved slot, part of a 32-bit register, part of a `W`-bit register; each with the access
issued. -/
theorem witness_RefusedAccessChangesNothing_bytes :
    (41 : Fin 128).val % 8 ≠ 0 ∧ 6 ≤ (48 : Fin 128).val / 8 ∧ 6 ≤ (120 : Fin 128).val / 8 ∧
    (8 * [(0 : Byte)].length ≠ if (40 : Fin 128).val / 8 = 1 ∨ (40 : Fin 128).val / 8 = 2 then std.cfg.width.bits else 32) ∧
    (8 * [(0 : Byte), 0, 0, 0].length ≠
      if (8 : Fin 128).val / 8 = 1 ∨ (8 : Fin 128).val / 8 = 2 then lcg64.cfg.width.bits else 32) ∧
    (issuing std (.access (.readBytes 41 4))).pending = .access (.readBytes 41 [(0 : Byte), 0, 0, 0].length) :: [] ∧
    (issuing std (.access (.writeBytes 40 [0]))).pending = .access (.writeBytes 40 [0]) :: [] :=
  ⟨by decide, by decide, by decide, by decide, by decide, rfl, rfl⟩
/-- The last assigned slot; a read of CONFIG; a read of slot 6, the first reserved one. -/
theorem witness_ByteSlotIsRegister :
    (40 : Fin 128).val = 8 * (5 : Fin 16).val ∧
    (∀ (k : Nat) (h : k < [(0x00 : Byte), 0x00, 0x51, 0x10].length),
      [(0x00 : Byte), 0x00, 0x51, 0x10][k] = (0x10510000 : BitVec (8 * 4)).extractLsb' (8 * k) 8) ∧
    step { State.reset with pending := .access (.read 5 (8 * 4)) :: [] } =
      .next { State.reset with pending := [], response := .value { bits := 32, value := configWord State.reset.cfg } } ∧
    (48 : Fin 128).val = 8 * (6 : Fin 16).val ∧
    step { State.reset with pending := .access (.read 6 (8 * 4)) :: [] } =
      .next { State.reset with pending := [], response := .busError } :=
  ⟨by decide, by decide, rfl, by decide, rfl⟩
theorem witness_StepAlwaysContinues : (issuing std .reset).pending = .reset :: [] := rfl
theorem witness_IdleKeepsAllState : State.reset.pending = [] := rfl
theorem witness_ResetInput :
    (issuing faulted .reset).pending = .reset :: [] ∧
    (issuing std (.resetDuring (.write 0 32 (0x03000000 : BitVec 32)))).pending =
      .resetDuring (.write 0 32 (0x03000000 : BitVec 32)) :: [] := ⟨rfl, rfl⟩
/-- Each clause of the STATUS statement has a block that meets its hypothesis. -/
theorem witness_StatusFields :
    (Block.reset 32).fault = none ∧ (Block.reset 32).pvalid = false ∧ std.blk.pvalid = true ∧
    ∀ c : Cause, ((Block.reset 32).raise c 0).fault = some c := ⟨rfl, rfl, rfl, fun _ => rfl⟩
theorem witness_NoVariantFault :
    readsParams (.mrt 7 .backward 3 255) = true ∧
    (Instr.mrt 7 .backward 3 255).wellFormed State.reset.cfg = true ∧ State.reset.blk.pvalid = false := by decide
theorem witness_AbsentTablePositionFaults :
    (State.resetOf noRadix).cfg.rtPresent = false ∧ State.reset.cfg.width.bits ≤ (32 : BitVec 7).toNat ∧
    lcg64.cfg.width.bits ≤ (64 : BitVec 7).toNat ∧
    State.reset.cfg.rtPresent = true ∧ State.reset.cfg.width.bits / 8 ≤ (4 : BitVec 3).toNat := by decide
theorem witness_VselResult :
    (∃ p, supportedParams State.reset.cfg (0 : BitVec 12).toNat = some p) ∧
    supportedParams State.reset.cfg (7 : BitVec 12).toNat = none := ⟨⟨_, rfl⟩, rfl⟩
theorem witness_RegistryRows : 3 < 4 ∧ 5 ≤ 5 := by decide
/-- Codes at the edges of each clause: 5 and 4095 always, 4 on `AMC-W32`, 0 and 3 on `AMC-W64`, 3 without ReverseStdLCG;
accepted: 0, 2, 3 and 4. -/
theorem witness_IllegalVariantFault :
    5 ≤ (5 : BitVec 12).toNat ∧ 5 ≤ (4095 : BitVec 12).toNat ∧ std.cfg.width = .w32 ∧ lcg64.cfg.width = .w64 ∧
    (3 : BitVec 12).toNat ≤ 3 ∧ std.cfg.revstdPresent = false ∧ (2 : BitVec 12).toNat ≤ 2 ∧
    (State.resetOf withReverse).cfg.width = .w32 ∧ (State.resetOf withReverse).cfg.revstdPresent = true := by decide
theorem witness_TableBuilders : std.blk.pvalid = true ∧ std.cfg.rtPresent = true ∧
    (std.blk.dt = none ∧ ∃ t, std.blk.buildDT.dt = some t) := ⟨rfl, rfl, rfl, _, rfl⟩
theorem witness_SingleStepResults : std.blk.pvalid = true := rfl
theorem witness_DoublingJumpResults : lcg64.blk.pvalid = true ∧
    (lcg64.blk.dt = none ∧ ∃ t, lcg64.blk.buildDT.dt = some t) := ⟨rfl, rfl, _, rfl⟩
theorem witness_RadixJumpResults : std.blk.pvalid = true ∧ std.cfg.rtPresent = true ∧
    (std.blk.rt = none ∧ std.blk.dt = none ∧ ∃ r, std.blk.buildRT.rt = some r) := ⟨rfl, rfl, rfl, rfl, _, rfl⟩
theorem witness_IndexResults : std.blk.pvalid = true := rfl
theorem witness_MapLoadResults : std.blk.pvalid = true := rfl
theorem witness_MdtResult : (31 : BitVec 7).toNat < std.cfg.width.bits ∧ (63 : BitVec 7).toNat < lcg64.cfg.width.bits ∧
    std.blk.pvalid = true ∧ (std.blk.dt = none ∧ ∃ t, std.blk.buildDT.dt = some t) :=
  ⟨by decide, by decide, rfl, rfl, _, rfl⟩
theorem witness_MrtResult : (3 : BitVec 3).toNat < std.cfg.width.bits / 8 ∧
    (7 : BitVec 3).toNat < lcg64.cfg.width.bits / 8 ∧ std.blk.pvalid = true ∧ std.cfg.rtPresent = true ∧
    (std.blk.rt = none ∧ std.blk.dt = none ∧ ∃ r, std.blk.buildRT.rt = some r) :=
  ⟨by decide, by decide, rfl, rfl, rfl, rfl, _, rfl⟩
theorem witness_DoublingTableEntries : 0 < 32 ∧ 30 + 1 < 32 ∧ std.blk.p.forward.invertible := by decide +kernel
theorem witness_RadixTableEntries : 3 < 32 / 8 ∧ 7 < 8 ∧ 255 < 256 := by decide
theorem witness_FoldOrderNotObservable : (List.finRange 32).reverse.Perm (List.finRange 32) := List.reverse_perm _
theorem witness_StepperLaws : std.blk.p.sound ∧ lcg64.blk.p.sound := by decide +kernel
theorem witness_InverterCorrect : std.blk.p.forward.invertible ∧ lcg64.blk.p.forward.invertible := by decide +kernel
theorem witness_RelativeIndex : (selected Config.reference 1).blk.p.forward.invertible := by decide +kernel
/-- StandardLCG's own constants as the open literals meet R126; so row 3 is a case of the statement. -/
theorem witness_RegistrySound :
    Config.reference.revstdSound ∧ (∃ p, supportedParams Config.reference 2 = some p) ∧
    Config.revstdSound { Config.reference with
      revstdPresent := true, revstdMul := 0x41C64E6D, revstdAdd := 0x6073, revstdInvMul := 0xEEB9EB65
      revstdInvAdd := 0x0A3561A1 } ∧
    (∃ p, supportedParams withReverse 3 = some p) :=
  ⟨by decide, ⟨_, rfl⟩, by decide, ⟨_, rfl⟩⟩

/-- A machine in mid-run meets the invariant: StandardLCG selected, both tables built. -/
def running : State := { std with blk := std.blk.buildRT, pending := [cmdWrite 0x01000002] }

theorem witness_running_inv : running.Inv where
  selected _ := rfl
  unselected h := by cases h
  doublingOfParams _ h := by cases h; rfl
  radixOfDoubling _ h := by cases h; exact ⟨rfl, _, rfl, rfl⟩

theorem witness_StepKeepsInv : running.Inv ∧ ∃ t, step running = .next t := ⟨witness_running_inv, _, rfl⟩

/-- The fault of `vsel 7` (95_test_vectors.md P3). -/
theorem witness_StepKeepsFaultRecord : faulted.FaultRecordTrue ∧ ∃ t, step faulted = .next t := by
  refine ⟨fun cause h => ?_, _, rfl⟩
  cases h
  exact ⟨7, by decide, rfl⟩

/-- Inputs that leave the record and inputs that clear it, at the edges: STATUS with bit 0 = 0 and 1, by number and by
byte, and a neighbour's slot. -/
theorem witness_FirstFaultRecordKept :
    faulted.blk.fault = some .illegalVariant ∧
    clearsFault (.access (.write 3 32 0xFFFFFFFE)) = false ∧ clearsFault (.access (.write 3 32 1)) = true ∧
    clearsFault (.access (.writeBytes 24 [0xFE, 1, 1, 1])) = false ∧
    clearsFault (.access (.writeBytes 24 [1, 0, 0, 0])) = true ∧
    clearsFault (.access (.writeBytes 32 [1, 0, 0, 0])) = false ∧ clearsFault (cmdWrite 0x06710001) = false ∧
    (∀ i ∈ (issuing faulted (cmdWrite 0x06710001)).pending.head?, clearsFault i = false) ∧
    ∃ t, step (issuing faulted (cmdWrite 0x06710001)) = .next t :=
  ⟨rfl, by decide, by decide, by decide, by decide, by decide, by decide, by decide, _, rfl⟩
theorem witness_NoStaleTable : running.Inv ∧ ∃ t, step running = .next t ∧ t.blk.var ≠ running.blk.var :=
  ⟨witness_running_inv, _, rfl, by decide +kernel⟩
theorem witness_JumpCommandsIterateTheBaseMap :
    running.Inv ∧ running.blk.pvalid = true ∧ running.cfg.rtPresent = true := ⟨witness_running_inv, rfl, rfl⟩

/-- A variant just selected, no table built, meets the invariant too. -/
theorem witness_selected_inv : std.Inv where
  selected _ := rfl
  unselected h := by cases h
  doublingOfParams _ h := by cases h
  radixOfDoubling _ h := by cases h

theorem witness_JumpCommandsIterateTheBaseMap_unbuilt :
    std.Inv ∧ std.blk.pvalid = true ∧ std.cfg.rtPresent = true ∧ std.blk.dt = none ∧ std.blk.rt = none :=
  ⟨witness_selected_inv, rfl, rfl, rfl, rfl⟩

/-- A machine with the seed 5 steps from 0 (95_test_vectors.md) in x3. -/
def fiveSteps : State := put 3 0x8E425287 std

theorem witness_GixCountsSteps :
    fiveSteps.Inv ∧ fiveSteps.blk.pvalid = true ∧ fiveSteps.blk.var ≠ 3 ∧ 5 < 2 ^ fiveSteps.cfg.width.bits ∧
    fiveSteps.blk.x[(3 : RegNum)] = (fun y => fiveSteps.blk.p.mul * y + fiveSteps.blk.p.add)^[5] 0 :=
  ⟨⟨fun _ => rfl, fun h => (by cases h), fun _ h => (by cases h), fun _ h => (by cases h)⟩, rfl, by decide +kernel,
    by decide +kernel, by decide +kernel⟩

/-- ReverseStdLCG selected, its literals StandardLCG's own. -/
def reverse : State :=
  selected { withReverse with
    revstdMul := 0x41C64E6D, revstdAdd := 0x6073, revstdInvMul := 0xEEB9EB65, revstdInvAdd := 0x0A3561A1 } 3

theorem witness_GixCountsSteps_reverse :
    reverse.Inv ∧ reverse.blk.pvalid = true ∧ reverse.blk.var = 3 ∧ reverse.blk.p.forward.invertible ∧
    reverse.blk.x[(0 : RegNum)] = (fun y => reverse.blk.p.mul * y + reverse.blk.p.add)^[0] 0 :=
  ⟨⟨fun _ => rfl, fun h => (by cases h), fun _ h => (by cases h), fun _ h => (by cases h)⟩, rfl, by decide +kernel,
    by decide +kernel, by decide +kernel⟩
theorem witness_TableBuildsNotObservable : running.Inv ∧ running.blk.pvalid = true := ⟨witness_running_inv, rfl⟩

end Sys2Proof.Tests
end

/-! The block's invariant (10_state.md R24 to R26): what each operation on the block owes it, then each
command, each host access and each step. -/

namespace Sys2Proof.Machine

/-! ## Operations on the block -/

section Operations

variable {c : Config} {b b' : Block c.width.bits}

/-- The invariant speaks of the parameter set, PVALID, VAR and the tables, and of nothing else. -/
theorem Block.Inv.of_setup_eq (h : b.Inv c) (hp : b'.p = b.p) (hv : b'.pvalid = b.pvalid) (hvar : b'.var = b.var)
    (hd : b'.dt = b.dt) (hr : b'.rt = b.rt) : b'.Inv c where
  selected hb := by rw [hvar, hp]; exact h.selected (hv ▸ hb)
  unselected hb := by rw [hvar, hd, hr]; exact h.unselected (hv ▸ hb)
  doublingOfParams t ht := by rw [hp]; exact h.doublingOfParams t (hd ▸ ht)
  radixOfDoubling r ht := by rw [hd]; exact h.radixOfDoubling r (hr ▸ ht)

theorem Block.Inv.setX (h : b.Inv c) (r : RegNum) (v : BitVec c.width.bits) : (b.setX r v).Inv c :=
  h.of_setup_eq rfl rfl rfl rfl rfl

theorem Block.Inv.setMap (h : b.Inv c) (k : MapNum) (m : AffineMap c.width.bits) : (b.setMap k m).Inv c :=
  h.of_setup_eq rfl rfl rfl rfl rfl

theorem Block.Inv.raise (h : b.Inv c) (cause : Cause) (word : Command) : (b.raise cause word).Inv c :=
  h.of_setup_eq rfl rfl rfl rfl rfl

theorem Block.Inv.clearFault (h : b.Inv c) : b.clearFault.Inv c :=
  h.of_setup_eq rfl rfl rfl rfl rfl

/-- With no variant selected and no table, nothing is owed. -/
theorem Block.inv_reset (c : Config) : (Block.reset c.width.bits).Inv c where
  selected h := by cases h
  unselected _ := ⟨rfl, rfl, rfl⟩
  doublingOfParams _ h := by cases h
  radixOfDoubling _ h := by cases h

/-- VAR holds a supported code whole: the codes with a row are below 5 (40_variant_and_tables.md R124). -/
theorem toNat_setWidth_of_supported {code : BitVec 12} {p : ParamSet c.width.bits}
    (h : supportedParams c code.toNat = some p) : (code.setWidth 3).toNat = code.toNat := by
  obtain ⟨r, hr, -, -⟩ := supportedParams_some h
  have hlt := variantRow_lt hr
  rw [BitVec.toNat_setWidth]
  omega

/-- Selecting a supported code makes the parameters that code's row and drops both tables. -/
theorem Block.inv_select {code : BitVec 12} {p : ParamSet c.width.bits} (h : supportedParams c code.toNat = some p) :
    (b.select p code).Inv c where
  selected _ := by rw [Block.select_var, toNat_setWidth_of_supported h]; exact h
  unselected hv := by cases hv
  doublingOfParams _ ht := by cases ht
  radixOfDoubling _ hr := by cases hr

/-- Stored or built, the doubling tables a command reads are those of the parameters. -/
theorem Block.Inv.doubling_eq (h : b.Inv c) : b.doubling = doublingTables b.p := by
  rcases hd : b.dt with _ | t
  · simp [Block.doubling, hd]
  · simp [Block.doubling, hd, h.doublingOfParams t hd]

/-- Stored or built, the radix tables a command reads are those of the parameters' doubling tables. -/
theorem Block.Inv.radix_eq (h : b.Inv c) : b.radix = radixTables (doublingTables b.p) := by
  rcases hr : b.rt with _ | r
  · simp [Block.radix, hr, h.doubling_eq]
  · obtain ⟨-, t, ht, hrt⟩ := h.radixOfDoubling r hr
    simp [Block.radix, hr, hrt, h.doublingOfParams t ht]

/-- Building the doubling tables again changes none that the radix tables were built from. -/
theorem Block.Inv.buildDT (h : b.Inv c) (hv : b.pvalid = true) : b.buildDT.Inv c where
  selected := h.selected
  unselected hb := by simp [hv] at hb
  doublingOfParams t ht := by simpa using ht.symm
  radixOfDoubling r hr := by
    obtain ⟨hp, t, ht, hrt⟩ := h.radixOfDoubling r hr
    exact ⟨hp, t, by rw [Block.buildDT_dt, h.doublingOfParams t ht], hrt⟩

theorem Block.Inv.ensureDT (h : b.Inv c) (hv : b.pvalid = true) : b.ensureDT.Inv c :=
  (h.buildDT hv).of_setup_eq (by simp) (by simp) (by simp) (by simp [h.doubling_eq]) (by simp)

/-- Radix tables are built from the doubling tables stored with them, where RT_PRESENT = 1. -/
theorem Block.Inv.buildRT (h : b.Inv c) (hp : c.rtPresent = true) (hv : b.pvalid = true) : b.buildRT.Inv c where
  selected := by simpa [Block.buildRT_eq] using h.selected
  unselected hb := by simp [Block.buildRT_eq, hv] at hb
  doublingOfParams t ht := by simpa [Block.buildRT_eq, h.doubling_eq] using ht.symm
  radixOfDoubling r hr := ⟨hp, b.doubling, by simp [Block.buildRT_eq], by simpa [Block.buildRT_eq] using hr.symm⟩

theorem Block.Inv.ensureRT (h : b.Inv c) (hp : c.rtPresent = true) (hv : b.pvalid = true) : b.ensureRT.Inv c := by
  rcases hr : b.rt with _ | r
  · simpa [Block.ensureRT, hr] using h.buildRT hp hv
  · rwa [Block.ensureRT_valid hr]

/-- Behind the NO_VARIANT check an effect may count on PVALID = 1. -/
theorem Block.Inv.needParams (h : b.Inv c) (i : Instr) (he : b.pvalid = true → b'.Inv c) :
    (b.needParams i b').Inv c := by
  cases hv : b.pvalid with
  | true => rw [Block.needParams_valid hv]; exact he hv
  | false => rw [Block.needParams_invalid hv]; exact h.raise ..

/-- Behind the radix check an effect may count on RT_PRESENT = 1. -/
theorem Block.Inv.needRadix (h : b.Inv c) (i : Instr) (he : c.rtPresent = true → b'.Inv c) :
    (b.needRadix c i b').Inv c := by
  cases hp : c.rtPresent with
  | true => rw [Block.needRadix_present b hp]; exact he hp
  | false => rw [Block.needRadix_absent b hp]; exact h.raise ..

end Operations

/-! ## Commands -/

/-- An outcome whose next state, if it has one, meets the invariant. -/
def NextInv (o : Host.Outcome State Fault Refusal) : Prop := ∀ t, o = .next t → t.Inv

@[simp] theorem nextInv_next (s : State) : NextInv (.next s) ↔ s.Inv :=
  ⟨fun h => h s rfl, fun h t e => by cases e; exact h⟩

theorem Block.Inv.commit {s : State} {b : Block s.cfg.width.bits} (h : b.Inv s.cfg) : NextInv (s.commit b) :=
  (nextInv_next { s with blk := b }).2 h

/-- Every command keeps the invariant: it writes data registers or DATA_OUT, records a fault, selects a supported code, or
builds the tables of the parameters behind its checks. -/
theorem exec_nextInv (i : Instr) {s : State} (h : s.Inv) : NextInv (exec i s) := by
  cases i with
  | nop => exact h.commit
  | vsel code =>
    cases hp : supportedParams s.cfg code.toNat with
    | some p => simpa [exec, execVsel, hp] using (Block.inv_select hp).commit
    | none => simpa [exec, execVsel, hp, State.raise] using (h.raise .illegalVariant (encode (.vsel code))).commit
  | dtb => exact (h.needParams .dtb h.buildDT).commit
  | rtb => exact (h.needRadix .rtb fun hp => h.needParams .rtb fun hv => h.buildRT hp hv).commit
  | ldx xd => exact (h.setX ..).commit
  | rdx xs => exact (h.of_setup_eq (b' := { s.blk with dataOut := s.blk.getX xs }) rfl rfl rfl rfl rfl).commit
  | mov xd xs => exact (h.setX ..).commit
  | stf xd xs => exact (h.needParams _ fun _ => h.setX ..).commit
  | stb xd xs => exact (h.needParams _ fun _ => h.setX ..).commit
  | jdf xd xs xn => exact (h.needParams _ fun hv => (h.ensureDT hv).setX ..).commit
  | jdb xd xs xn => exact (h.needParams _ fun hv => (h.ensureDT hv).setX ..).commit
  | jrf xd xs xn => exact (h.needRadix _ fun hp => h.needParams _ fun hv => (h.ensureRT hp hv).setX ..).commit
  | jrb xd xs xn => exact (h.needRadix _ fun hp => h.needParams _ fun hv => (h.ensureRT hp hv).setX ..).commit
  | gix xd xs => exact (h.needParams _ fun _ => h.setX ..).commit
  | gixr xd xs xo => exact (h.needParams _ fun _ => h.setX ..).commit
  | mcmp md ms1 ms2 => exact (h.setMap ..).commit
  | mapp xd ms1 xs => exact (h.setX ..).commit
  | msq md ms1 => exact (h.setMap ..).commit
  | mbase md d => exact (h.needParams _ fun _ => h.setMap ..).commit
  | mdt md d k =>
    show NextInv (execMdt md d k s)
    unfold execMdt
    split
    · exact (h.needParams _ fun hv => (h.ensureDT hv).setMap ..).commit
    · exact (h.raise ..).commit
  | mrt md d p v =>
    refine (h.needRadix _ fun hp => ?_).commit
    split
    · exact h.needParams _ fun hv => (h.ensureRT hp hv).setMap ..
    · exact h.raise ..
  | mid md => exact (h.setMap ..).commit

/-! ## Host accesses and steps -/

theorem execute_nextInv (w : Command) {s : State} (h : s.Inv) : NextInv (execute w s) := by
  obtain ⟨c, -, e⟩ | ⟨i, -, e⟩ := execute_cases w s
  · rw [e]; exact (h.raise c w).commit
  · rw [e]; exact exec_nextInv i h

/-- The answer is no part of the block. -/
theorem NextInv.answerCommand {o : Host.Outcome State Fault Refusal} (h : NextInv o) : NextInv (answerCommand o) := by
  cases o with
  | next s => exact (nextInv_next _).2 ((nextInv_next s).1 h)
  | fault f => intro t e; cases e
  | refused r => intro t e; cases e

theorem writeReg_nextInv (r : HostReg) {n : Nat} (v : BitVec n) {s : State} (h : s.Inv) : NextInv (writeReg r v s) := by
  cases r with
  | cmd =>
    show NextInv (writeCmd (v.setWidth 32) s)
    obtain ⟨-, e⟩ | ⟨-, e⟩ := writeCmd_cases (v.setWidth 32) s
    · rw [e]; exact (nextInv_next _).2 h
    · rw [e]; exact (execute_nextInv _ h).answerCommand
  | dataIn =>
    exact (nextInv_next _).2
      (h.of_setup_eq (b' := { s.blk with dataIn := v.setWidth s.cfg.width.bits }) rfl rfl rfl rfl rfl)
  | status =>
    refine (nextInv_next _).2 ?_
    show Block.Inv s.cfg (if v.getLsbD 0 then s.blk.clearFault else s.blk)
    split
    · exact h.clearFault
    · exact h
  | dataOut => exact (nextInv_next _).2 h
  | fcmd => exact (nextInv_next _).2 h
  | config => exact (nextInv_next _).2 h

theorem performAccess_nextInv (a : HostAccess) {s : State} (h : s.Inv) : NextInv (performAccess a s) := by
  obtain e | ⟨r, e⟩ | ⟨r, e⟩ | ⟨r, n, v, -, e⟩ := performAccess_cases a s
  · rw [e]; exact (nextInv_next _).2 h
  · rw [e]; exact (nextInv_next _).2 h
  · rw [e]; exact (nextInv_next _).2 h
  · rw [e]; exact writeReg_nextInv r v h

/-- A step is idle, one access, or a reset. -/
theorem step_nextInv {s : State} (h : s.Inv) : NextInv (step s) := by
  cases hp : s.pending with
  | nil => simpa [step, performNext, hp] using h
  | cons i rest =>
    cases i with
    | access a => rw [step_access hp]; exact performAccess_nextInv a h
    | reset => rw [step_reset hp]; exact (nextInv_next _).2 (Block.inv_reset s.cfg)
    | resetDuring a => rw [step_resetDuring hp]; exact (nextInv_next _).2 (Block.inv_reset s.cfg)

/-- Settles O48: what a step can do to the block is one of the operations above, each of which keeps the invariant. -/
theorem stepKeepsInv : Obligations.StepKeepsInv := fun _ t h e => step_nextInv h t e

/-- Settles O47. -/
theorem invAtReset : Obligations.InvAtReset := Block.inv_reset

end Sys2Proof.Machine

/-! Whether a table is stored or built on demand is not seen in a result (10_state.md R27,
40_variant_and_tables.md R129): two blocks that differ in their valid bits only, and so read the same tables, are kept
alike outside the tables by every operation. -/

namespace Sys2Proof.Machine

/-- Two blocks equal but for what DT and RT hold. -/
structure Block.SameResults {w : Nat} (b1 b2 : Block w) : Prop where
  x : b1.x = b2.x
  p : b1.p = b2.p
  pvalid : b1.pvalid = b2.pvalid
  var : b1.var = b2.var
  dataIn : b1.dataIn = b2.dataIn
  dataOut : b1.dataOut = b2.dataOut
  fault : b1.fault = b2.fault
  fcmd : b1.fcmd = b2.fcmd

namespace Block.SameResults

variable {w : Nat} {b1 b2 e1 e2 : Block w}

theorem getX (h : b1.SameResults b2) (r : RegNum) : b1.getX r = b2.getX r := by
  simp only [Block.getX, h.x]

theorem getMap (h : b1.SameResults b2) (k : MapNum) : b1.getMap k = b2.getMap k := by
  simp only [Block.getMap, h.getX]

theorem setX (h : b1.SameResults b2) {v1 v2 : BitVec w} (r : RegNum) (hv : v1 = v2) :
    (b1.setX r v1).SameResults (b2.setX r v2) :=
  { h with x := by simp only [Block.setX, h.x, hv] }

theorem setMap (h : b1.SameResults b2) {m1 m2 : AffineMap w} (k : MapNum) (hm : m1 = m2) :
    (b1.setMap k m1).SameResults (b2.setMap k m2) :=
  (h.setX (mulReg k) (congrArg AffineMap.a hm)).setX (addReg k) (congrArg AffineMap.b hm)

theorem raise (h : b1.SameResults b2) (cause : Cause) (word : Command) :
    (b1.raise cause word).SameResults (b2.raise cause word) :=
  { h with fault := rfl, fcmd := rfl }

theorem select (h : b1.SameResults b2) (p : ParamSet w) (code : BitVec 12) :
    (b1.select p code).SameResults (b2.select p code) :=
  { h with p := rfl, pvalid := rfl, var := rfl }

theorem setDataOut (h : b1.SameResults b2) {v1 v2 : BitVec w} (hv : v1 = v2) :
    Block.SameResults { b1 with dataOut := v1 } { b2 with dataOut := v2 } :=
  { h with dataOut := hv }

theorem buildDT (h : b1.SameResults b2) : b1.buildDT.SameResults b2.buildDT := { h with }

theorem ensureDT (h : b1.SameResults b2) : b1.ensureDT.SameResults b2.ensureDT := by
  constructor <;> simp [h.x, h.p, h.pvalid, h.var, h.dataIn, h.dataOut, h.fault, h.fcmd]

theorem ensureRT (h : b1.SameResults b2) : b1.ensureRT.SameResults b2.ensureRT := by
  constructor <;> simp [h.x, h.p, h.pvalid, h.var, h.dataIn, h.dataOut, h.fault, h.fcmd]

theorem buildRT (h : b1.SameResults b2) : b1.buildRT.SameResults b2.buildRT := { h.ensureDT with }

theorem needParams (h : b1.SameResults b2) (he : e1.SameResults e2) (i : Instr) :
    (b1.needParams i e1).SameResults (b2.needParams i e2) := by
  cases hv : b1.pvalid with
  | true => rwa [Block.needParams_valid hv, Block.needParams_valid (h.pvalid ▸ hv)]
  | false => rw [Block.needParams_invalid hv, Block.needParams_invalid (h.pvalid ▸ hv)]; exact h.raise ..

theorem needRadix (h : b1.SameResults b2) (he : e1.SameResults e2) (c : Config) (i : Instr) :
    (b1.needRadix c i e1).SameResults (b2.needRadix c i e2) := by
  cases hp : c.rtPresent with
  | true => rwa [Block.needRadix_present _ hp, Block.needRadix_present _ hp]
  | false => rw [Block.needRadix_absent _ hp, Block.needRadix_absent _ hp]; exact h.raise ..

/-- A doubling jump over the same tables. -/
theorem jumpByDoubling (h : b1.SameResults b2) (ht : b1.doubling = b2.doubling) (d : Dir) (xd xs xn : RegNum) :
    (b1.jumpByDoubling d xd xs xn).SameResults (b2.jumpByDoubling d xd xs xn) :=
  h.ensureDT.setX xd (by rw [ht, h.getX, h.getX])

/-- A radix jump over the same tables. -/
theorem jumpByRadix (h : b1.SameResults b2) (ht : b1.radix = b2.radix) (d : Dir) (xd xs xn : RegNum) :
    (b1.jumpByRadix d xd xs xn).SameResults (b2.jumpByRadix d xd xs xn) :=
  h.ensureRT.setX xd (by rw [ht, h.getX, h.getX])

end Block.SameResults

/-- A command run on two blocks of one configuration completes on both, alike outside the tables. -/
def SameCompletion (s : State) (b : Block s.cfg.width.bits) (o1 o2 : Host.Outcome State Fault Refusal) : Prop :=
  ∃ b1 b2 : Block s.cfg.width.bits, o1 = s.commit b1 ∧ o2 = State.commit { s with blk := b } b2 ∧ b1.SameResults b2

theorem Block.SameResults.commit {s : State} {b b1 b2 : Block s.cfg.width.bits} (h : b1.SameResults b2) :
    SameCompletion s b (s.commit b1) (State.commit { s with blk := b } b2) :=
  ⟨b1, b2, rfl, rfl, h⟩

/-- Every command on two blocks that are alike outside the tables and read the same tables. -/
theorem exec_sameCompletion (i : Instr) (s : State) (b : Block s.cfg.width.bits) (h : s.blk.SameResults b)
    (hd : s.blk.doubling = b.doubling) (hr : s.blk.radix = b.radix) :
    SameCompletion s b (exec i s) (exec i { s with blk := b }) := by
  cases i with
  | nop => exact h.commit
  | vsel code =>
    cases hp : supportedParams s.cfg code.toNat with
    | some p => simpa [exec, execVsel, hp] using (h.select p code).commit
    | none => simpa [exec, execVsel, hp, State.raise] using (h.raise .illegalVariant (encode (.vsel code))).commit
  | dtb => exact (h.needParams h.buildDT _).commit
  | rtb => exact (h.needRadix (h.needParams h.buildRT _) _ _).commit
  | ldx xd => exact (h.setX xd h.dataIn).commit
  | rdx xs => exact (h.setDataOut (h.getX xs)).commit
  | mov xd xs => exact (h.setX xd (h.getX xs)).commit
  | stf xd xs => exact (h.needParams (h.setX xd (by rw [h.p, h.getX])) _).commit
  | stb xd xs => exact (h.needParams (h.setX xd (by rw [h.p, h.getX])) _).commit
  | jdf xd xs xn => exact (h.needParams (h.jumpByDoubling hd ..) _).commit
  | jdb xd xs xn => exact (h.needParams (h.jumpByDoubling hd ..) _).commit
  | jrf xd xs xn => exact (h.needRadix (h.needParams (h.jumpByRadix hr ..) _) _ _).commit
  | jrb xd xs xn => exact (h.needRadix (h.needParams (h.jumpByRadix hr ..) _) _ _).commit
  | gix xd xs => exact (h.needParams (h.setX xd (by rw [h.p, h.getX])) _).commit
  | gixr xd xs xo => exact (h.needParams (h.setX xd (by rw [h.p, h.getX, h.getX])) _).commit
  | mcmp md ms1 ms2 => exact (h.setMap md (by rw [h.getMap, h.getMap])).commit
  | mapp xd ms1 xs => exact (h.setX xd (by rw [h.getMap, h.getX])).commit
  | msq md ms1 => exact (h.setMap md (by rw [h.getMap])).commit
  | mbase md d => exact (h.needParams (h.setMap md (by rw [h.p])) _).commit
  | mdt md d k =>
    by_cases hk : k.toNat < s.cfg.width.bits
    · simpa [exec, execMdt, hk] using
        (h.needParams (h.ensureDT.setMap md (congrArg (fun t => (t.get d)[k.toNat]) hd)) (.mdt md d k)).commit
    · simpa [exec, execMdt, hk, State.raise] using (h.raise .indexRange (encode (.mdt md d k))).commit
  | mrt md d p v =>
    refine (h.needRadix ?_ _ _).commit
    by_cases hp : p.toNat < s.cfg.width.bits / 8
    · simpa [hp] using
        h.needParams (h.ensureRT.setMap md (congrArg (fun t => ((t.get d)[p.toNat])[v.toNat]'v.isLt) hr)) (.mrt md d p v)
    · simpa [hp] using h.raise .indexRange (encode (.mrt md d p v))
  | mid md => exact (h.setMap md rfl).commit

/-- Settles O54: the block with its tables stored reads the tables it would build. Neither the invariant nor PVALID = 1 is
needed: without them both runs record the same fault or read the same stored tables. -/
theorem tableBuildsNotObservable : Obligations.TableBuildsNotObservable := by
  intro i s _ _
  have hsame : s.blk.SameResults { s.blk with dt := some s.blk.doubling, rt := some s.blk.radix } := by
    constructor <;> rfl
  obtain ⟨b1, b2, h1, h2, h⟩ := exec_sameCompletion i s _ hsame rfl rfl
  exact ⟨b1, b2, h1, h2, h.x, h.p, h.pvalid, h.var, h.dataIn, h.dataOut, h.fault, h.fcmd⟩

end Sys2Proof.Machine

/-! The values at reset (10_state.md R41), and the fields of the two computed host registers (R33, R36). -/

namespace Sys2Proof.Machine

/-! ## STATUS -/

section Status

variable {w : Nat} (b : Block w)

/-- STATUS field by field from bit 0 upwards, each field read from its own lowest bit (R33). -/
theorem Block.status_getLsbD (k : Nat) :
    b.status.getLsbD k =
      if k < 1 then (BitVec.ofBool b.faultBit).getLsbD k
      else if k - 1 < 3 then (0 : BitVec 3).getLsbD (k - 1)
      else if k - 4 < 4 then b.causeField.getLsbD (k - 4)
      else if k - 8 < 1 then (BitVec.ofBool b.pvalid).getLsbD (k - 8)
      else if k - 9 < 1 then (BitVec.ofBool b.dtValid).getLsbD (k - 9)
      else if k - 10 < 1 then (BitVec.ofBool b.rtValid).getLsbD (k - 10)
      else if k - 11 < 1 then (0 : BitVec 1).getLsbD (k - 11)
      else if k - 12 < 3 then b.varField.getLsbD (k - 12)
      else (0 : BitVec 17).getLsbD (k - 15) := by
  unfold Block.status
  repeat rw [BitVec.getLsbD_append]
  rfl

theorem Block.status_fault : b.status.getLsbD 0 = b.fault.isSome := by
  rw [b.status_getLsbD]; simp [Block.faultBit]

theorem Block.status_cause : b.status.extractLsb' 4 4 = b.causeField := by
  ext k hk
  rw [BitVec.getElem_extractLsb', b.status_getLsbD]
  grind

theorem Block.status_pvalid : b.status.getLsbD 8 = b.pvalid := by
  rw [b.status_getLsbD]; simp

theorem Block.status_dtValid : b.status.getLsbD 9 = b.dt.isSome := by
  rw [b.status_getLsbD]; simp [Block.dtValid]

theorem Block.status_rtValid : b.status.getLsbD 10 = b.rt.isSome := by
  rw [b.status_getLsbD]; simp [Block.rtValid]

theorem Block.status_var : b.status.extractLsb' 12 3 = b.varField := by
  ext k hk
  rw [BitVec.getElem_extractLsb', b.status_getLsbD]
  grind

/-- The bits between the fields. -/
theorem Block.status_reserved {k : Nat} (hk : (1 ≤ k ∧ k ≤ 3) ∨ k = 11 ∨ (15 ≤ k ∧ k ≤ 31)) :
    b.status.getLsbD k = false := by
  rw [b.status_getLsbD]
  grind

end Status

/-- The code in CAUSE (60_exceptions.md R250). -/
theorem Block.causeField_some {w : Nat} {b : Block w} {cause : Cause} (h : b.fault = some cause) :
    b.causeField = causeCode cause := by
  simp [Block.causeField, h]

/-- Settles O17, field by field. -/
theorem statusFields : Obligations.StatusFields := by
  intro w b
  refine ⟨b.status_fault, fun h => ?_, fun h => ?_, fun h => ?_, fun h => ?_, fun h => ?_, fun h => ?_,
    b.status_pvalid, b.status_dtValid, b.status_rtValid, fun h => ?_, fun h => ?_, fun k hk => b.status_reserved hk⟩
  · simp [b.status_cause, Block.causeField, h]
  · rw [b.status_cause, Block.causeField_some h]; rfl
  · rw [b.status_cause, Block.causeField_some h]; rfl
  · rw [b.status_cause, Block.causeField_some h]; rfl
  · rw [b.status_cause, Block.causeField_some h]; rfl
  · rw [b.status_cause, Block.causeField_some h]; rfl
  · simp [b.status_var, Block.varField, h]
  · simp [b.status_var, Block.varField, h]

/-! ## CONFIG -/

section Config

variable (c : Config)

/-- CONFIG field by field from bit 0 upwards, each field read from its own lowest bit (R36). -/
theorem configWord_getLsbD (k : Nat) :
    (configWord c).getLsbD k =
      if k < 8 then (widthField c.width).getLsbD k
      else if k - 8 < 1 then (BitVec.ofBool c.rtPresent).getLsbD (k - 8)
      else if k - 9 < 7 then (0 : BitVec 7).getLsbD (k - 9)
      else if k - 16 < 5 then (varMask c).getLsbD (k - 16)
      else (0 : BitVec 11).getLsbD (k - 21) := by
  unfold configWord
  repeat rw [BitVec.getLsbD_append]
  rfl

theorem configWord_width : (configWord c).extractLsb' 0 8 = BitVec.ofNat 8 c.width.bits := by
  have hw : widthField c.width = BitVec.ofNat 8 c.width.bits := by cases c.width <;> rfl
  rw [← hw]
  ext k hk
  rw [BitVec.getElem_extractLsb', configWord_getLsbD]
  grind

theorem configWord_rtPresent : (configWord c).getLsbD 8 = c.rtPresent := by
  rw [configWord_getLsbD]; simp

theorem configWord_varMask {k : Nat} (hk : k < 5) : (configWord c).getLsbD (16 + k) = (varMask c).getLsbD k := by
  rw [configWord_getLsbD]
  grind

/-- VARMASK has the bits of the rows of the configured width, row 3 only when it is present (R124, R125). -/
theorem varMask_getLsbD {k : Nat} (hk : k < 5) : (varMask c).getLsbD k = (supportedParams c k).isSome := by
  obtain ⟨width, _, revstdPresent, _, _, _, _, _, _, _⟩ := c
  cases width with
  | w32 => cases revstdPresent <;> interval_cases k <;> simp [varMask, supportedParams, variantRow]
  | w64 => cases revstdPresent <;> interval_cases k <;> simp [varMask, supportedParams, variantRow]

/-- The bits between the fields. -/
theorem configWord_reserved {k : Nat} (hk : (9 ≤ k ∧ k ≤ 15) ∨ (21 ≤ k ∧ k ≤ 31)) :
    (configWord c).getLsbD k = false := by
  rw [configWord_getLsbD]
  grind

end Config

/-- Settles O18. -/
theorem configFields : Obligations.ConfigFields := by
  intro c
  refine ⟨configWord_width c, configWord_rtPresent c, fun k hk => ?_, fun k hk => configWord_reserved c hk, ?_, ?_⟩
  · rw [configWord_varMask c hk, varMask_getLsbD c hk]
  · simp [configWord, varMask, widthField]
  · simp [configWord, varMask, widthField]

/-! ## Reset -/

/-- Every field STATUS shows is 0 at reset. -/
theorem Block.reset_status (w : Nat) : (Block.reset w).status = 0 := by
  simp [Block.status, Block.reset, Block.varField, Block.rtValid, Block.dtValid, Block.causeField, Block.faultBit]

/-- Settles O16. -/
theorem resetValues : Obligations.ResetValues := by
  intro c
  refine ⟨fun r => ?_, rfl, rfl, rfl, rfl, rfl, rfl, rfl, rfl, rfl, rfl, Block.reset_status _, rfl,
    Config.reference, rfl⟩
  exact Vector.getElem_replicate r.isLt

/-- Settles O49: no cause is recorded at reset. -/
theorem faultRecordAtReset : Obligations.FaultRecordAtReset := by
  intro c cause h
  cases h

end Sys2Proof.Machine

/-! The slots of the window on a byte-addressed bus (20_memory.md R60, R61): the slot at `8*r` reaches register `r`,
and its bytes are the register's value. -/

namespace Sys2Proof.Machine

/-- The slot based at `8*r` is the slot of host register number `r`. -/
theorem slotReg_of_base {o : Fin 128} {r : Fin 16} (h : o.val = 8 * r.val) : slotReg o = hostRegOf r := by
  have hr : (⟨o.val / 8, by omega⟩ : Fin 16) = r := Fin.ext (by simp only; omega)
  rw [slotReg, if_pos (by omega), hr]

/-- A value is the slot value of its own bytes. -/
theorem slotValue_eq {bytes : List Byte} {v : BitVec (8 * bytes.length)}
    (h : ∀ (k : Nat) (hk : k < bytes.length), bytes[k] = byteOf v k) : slotValue (8 * bytes.length) bytes = v := by
  refine BitVec.eq_of_getLsbD_eq fun i hi => ?_
  have hk : i / 8 < bytes.length := by omega
  have hj : i % 8 < 8 := Nat.mod_lt _ (by decide)
  have hbit := slotValue_getLsbD (8 * bytes.length) bytes (i / 8) (i % 8) hj (by omega)
  rw [← List.getElem_eq_getD (h := hk), h _ hk, byteOf, BitVec.getLsbD_extractLsb', Nat.div_add_mod] at hbit
  simpa [hj] using hbit

@[simp] theorem readReg_bits (r : HostReg) (s : State) : (readReg r s).bits = r.bits s.cfg.width.bits := by
  cases r <;> rfl

/-- Writing the bytes of a value to a slot is writing the value to the slot's register. -/
theorem performAccess_writeBytes {o : Fin 128} {r : Fin 16} (ho : o.val = 8 * r.val) {bytes : List Byte}
    {v : BitVec (8 * bytes.length)} (h : ∀ (k : Nat) (hk : k < bytes.length), bytes[k] = byteOf v k) (s : State) :
    performAccess (.writeBytes o bytes) s = performAccess (.write r (8 * bytes.length) v) s := by
  simp only [performAccess, slotReg_of_base ho, slotValue_eq h]

/-- A register read and the byte read of its slot are refused together, or return one value and its bytes. -/
theorem performAccess_readBytes {o : Fin 128} {r : Fin 16} (ho : o.val = 8 * r.val) (count : Nat) (s : State) :
    (performAccess (.read r (8 * count)) s = .next (s.answer .busError) ∧
      performAccess (.readBytes o count) s = .next (s.answer .busError)) ∨
    ∃ v : HostValue, v.bits = 8 * count ∧ performAccess (.read r (8 * count)) s = .next (s.answer (.value v)) ∧
      performAccess (.readBytes o count) s = .next (s.answer (.bytes v.slotBytes)) := by
  rcases h : wholeReg s.cfg.width.bits (hostRegOf r) (8 * count) with _ | q
  · exact .inl (by simp [performAccess, slotReg_of_base ho, h])
  · exact .inr ⟨readReg q s, by rw [readReg_bits, (wholeReg_bits h).2], by simp [performAccess, h],
      by simp [performAccess, slotReg_of_base ho, h]⟩

/-- Settles O12: a byte access of a slot is the access of its register, and the slot's bytes are the value's. -/
theorem byteSlotIsRegister : Obligations.ByteSlotIsRegister := by
  intro s rest r o ho
  refine ⟨fun bytes v h => ?_, fun count v e => ?_, fun count e => ?_⟩
  · rw [step_access rfl, step_access rfl]
    exact performAccess_writeBytes ho h _
  · rw [step_access rfl] at e ⊢
    obtain ⟨er, -⟩ | ⟨u, hbits, er, eb⟩ := performAccess_readBytes ho count { s with pending := rest }
    · simp [er, State.answer] at e
    · obtain rfl : u = v := by simpa [er, State.answer] using e
      exact ⟨u.slotBytes, by simp [hbits], fun k hk => u.slotBytes_getElem k hk, eb⟩
  · rw [step_access rfl] at e ⊢
    obtain ⟨-, eb⟩ | ⟨u, -, er, -⟩ := performAccess_readBytes ho count { s with pending := rest }
    · exact eb
    · simp [er, State.answer] at e

end Sys2Proof.Machine

/-! What a step can do to a state: it answers a next state of the same configuration with the oldest input removed, and where
it changes VAR both tables are invalid afterwards (20_memory.md R65, R66, R70). -/

namespace Sys2Proof.Machine

/-! ## VAR and the tables -/

/-- From one block to the next VAR is kept, or no table is valid. -/
def Block.VarKeptOrNoTables {w : Nat} (b b' : Block w) : Prop := b'.var = b.var ∨ b'.dt = none ∧ b'.rt = none

theorem Block.needParams_var {w : Nat} {b e : Block w} (h : e.var = b.var) (i : Instr) :
    (b.needParams i e).var = b.var := by
  cases hv : b.pvalid with
  | true => rw [Block.needParams_valid hv, h]
  | false => rw [Block.needParams_invalid hv, Block.raise_var]

theorem Block.needRadix_var {w : Nat} {b e : Block w} (h : e.var = b.var) (c : Config) (i : Instr) :
    (b.needRadix c i e).var = b.var := by
  cases hp : c.rtPresent with
  | true => rw [Block.needRadix_present b hp, h]
  | false => rw [Block.needRadix_absent b hp, Block.raise_var]

@[simp] theorem Block.buildRT_var {w : Nat} (b : Block w) : b.buildRT.var = b.var := by simp [Block.buildRT_eq]

@[simp] theorem Block.jumpByDoubling_var {w : Nat} (b : Block w) (d : Dir) (xd xs xn : RegNum) :
    (b.jumpByDoubling d xd xs xn).var = b.var := by simp [Block.jumpByDoubling_eq]

@[simp] theorem Block.jumpByRadix_var {w : Nat} (b : Block w) (d : Dir) (xd xs xn : RegNum) :
    (b.jumpByRadix d xd xs xn).var = b.var := by simp [Block.jumpByRadix_eq]

/-! ## Commands -/

/-- Every command completes with some block. Only VSEL writes VAR, and it drops both tables. -/
theorem exec_commits (i : Instr) (s : State) : ∃ b, exec i s = s.commit b ∧ s.blk.VarKeptOrNoTables b := by
  cases i with
  | nop => exact ⟨_, rfl, .inl rfl⟩
  | vsel code =>
    cases hp : supportedParams s.cfg code.toNat with
    | some p => exact ⟨s.blk.select p code, by simp [exec, execVsel, hp], .inr ⟨rfl, rfl⟩⟩
    | none =>
      exact ⟨s.blk.raise .illegalVariant (encode (.vsel code)), by simp [exec, execVsel, hp, State.raise], .inl rfl⟩
  | dtb => exact ⟨_, rfl, .inl (Block.needParams_var (by simp) _)⟩
  | rtb => exact ⟨_, rfl, .inl (Block.needRadix_var (Block.needParams_var (by simp) _) _ _)⟩
  | ldx xd => exact ⟨_, rfl, .inl rfl⟩
  | rdx xs => exact ⟨_, rfl, .inl rfl⟩
  | mov xd xs => exact ⟨_, rfl, .inl rfl⟩
  | stf xd xs => exact ⟨_, rfl, .inl (Block.needParams_var (by simp) _)⟩
  | stb xd xs => exact ⟨_, rfl, .inl (Block.needParams_var (by simp) _)⟩
  | jdf xd xs xn => exact ⟨_, rfl, .inl (Block.needParams_var (by simp) _)⟩
  | jdb xd xs xn => exact ⟨_, rfl, .inl (Block.needParams_var (by simp) _)⟩
  | jrf xd xs xn => exact ⟨_, rfl, .inl (Block.needRadix_var (Block.needParams_var (by simp) _) _ _)⟩
  | jrb xd xs xn => exact ⟨_, rfl, .inl (Block.needRadix_var (Block.needParams_var (by simp) _) _ _)⟩
  | gix xd xs => exact ⟨_, rfl, .inl (Block.needParams_var (by simp) _)⟩
  | gixr xd xs xo => exact ⟨_, rfl, .inl (Block.needParams_var (by simp) _)⟩
  | mcmp md ms1 ms2 => exact ⟨_, rfl, .inl rfl⟩
  | mapp xd ms1 xs => exact ⟨_, rfl, .inl rfl⟩
  | msq md ms1 => exact ⟨_, rfl, .inl rfl⟩
  | mbase md d => exact ⟨_, rfl, .inl (Block.needParams_var (by simp) _)⟩
  | mdt md d k =>
    show ∃ b, execMdt md d k s = s.commit b ∧ s.blk.VarKeptOrNoTables b
    unfold execMdt
    split
    · exact ⟨_, rfl, .inl (Block.needParams_var (by simp) _)⟩
    · exact ⟨_, rfl, .inl rfl⟩
  | mrt md d p v =>
    refine ⟨_, rfl, .inl (Block.needRadix_var ?_ _ _)⟩
    split
    · exact Block.needParams_var (by simp) _
    · rfl
  | mid md => exact ⟨_, rfl, .inl rfl⟩

/-- A command word, decoded or not, completes the same way. -/
theorem execute_commits (w : Command) (s : State) : ∃ b, execute w s = s.commit b ∧ s.blk.VarKeptOrNoTables b := by
  obtain ⟨c, -, e⟩ | ⟨i, -, e⟩ := execute_cases w s
  · exact ⟨s.blk.raise c w, e, .inl rfl⟩
  · rw [e]; exact exec_commits i s

/-! ## Host accesses, inputs and steps -/

/-- The outcome is a next state that differs from `s` in its block and its answer only, and has no valid table where VAR
changed. -/
def Answers (s : State) (o : Host.Outcome State Fault Refusal) : Prop :=
  ∃ (b : Block s.cfg.width.bits) (r : HostResponse),
    o = .next { s with blk := b, response := r } ∧ s.blk.VarKeptOrNoTables b

theorem writeReg_answers (r : HostReg) {n : Nat} (v : BitVec n) (s : State) : Answers s (writeReg r v s) := by
  cases r with
  | cmd =>
    obtain ⟨-, e⟩ | ⟨-, e⟩ := writeCmd_cases (v.setWidth 32) s
    · exact ⟨s.blk, .accepted, e, .inl rfl⟩
    · obtain ⟨b, eb, hb⟩ := execute_commits (v.setWidth 32) s
      rw [eb] at e
      exact ⟨b, .accepted, e, hb⟩
  | status =>
    refine ⟨_, .accepted, rfl, .inl ?_⟩
    split <;> rfl
  | dataIn => exact ⟨_, .accepted, rfl, .inl rfl⟩
  | dataOut => exact ⟨_, .accepted, rfl, .inl rfl⟩
  | fcmd => exact ⟨_, .accepted, rfl, .inl rfl⟩
  | config => exact ⟨_, .accepted, rfl, .inl rfl⟩

theorem performAccess_answers (a : HostAccess) (s : State) : Answers s (performAccess a s) := by
  obtain e | ⟨r, e⟩ | ⟨r, e⟩ | ⟨r, n, v, -, e⟩ := performAccess_cases a s
  · exact ⟨s.blk, _, e, .inl rfl⟩
  · exact ⟨s.blk, _, e, .inl rfl⟩
  · exact ⟨s.blk, _, e, .inl rfl⟩
  · rw [e]; exact writeReg_answers r v s

theorem performInput_answers (i : HostInput) (s : State) : Answers s (performInput i s) := by
  cases i with
  | access a => exact performAccess_answers a s
  | reset => exact ⟨Block.reset _, .silent, rfl, .inr ⟨rfl, rfl⟩⟩
  | resetDuring a => exact ⟨Block.reset _, .interruptedByReset, rfl, .inr ⟨rfl, rfl⟩⟩

/-- The step at the oldest input. -/
theorem step_cons {s : State} {i : HostInput} {rest : List HostInput} (h : s.pending = i :: rest) :
    step s = performInput i { s with pending := rest } := by
  simp [step, performNext, h]

/-- Every step takes the oldest input, if there is one, off the list and answers. -/
theorem step_answers (s : State) : Answers { s with pending := s.pending.tail } (step s) := by
  obtain ⟨cfg, blk, pending, response⟩ := s
  cases pending with
  | nil => exact ⟨blk, response, rfl, .inl rfl⟩
  | cons i rest => exact performInput_answers i ⟨cfg, blk, rest, response⟩

/-- Settles O13. -/
theorem stepAlwaysContinues : Obligations.StepAlwaysContinues := by
  intro s
  obtain ⟨b, r, e, -⟩ := step_answers s
  exact ⟨_, e, rfl, rfl, fun i rest hp => (step_cons hp).symm.trans e⟩

/-- Settles O51: under the invariant a stored table is the one that would be built, and VAR is written only where both
tables are dropped, by VSEL and by a reset. -/
theorem noStaleTable : Obligations.NoStaleTable := by
  intro s hs
  refine ⟨hs.doubling_eq, hs.radix_eq, fun t ht => ⟨step_nextInv hs t ht, fun hvar => ?_⟩⟩
  obtain ⟨b, r, e, hb⟩ := step_answers s
  rw [e] at ht
  cases ht
  exact hb.resolve_left hvar

end Sys2Proof.Machine

/-! Decoding and encoding of command words are inverse to each other (30_encoding.md R90 to R95): decoding is matching a
row of the opcode map, a command's word matches its own row, and a word that matches a row is put together from the
fields the row reads. -/

namespace Sys2Proof

/-! ## Words that match a row -/

section RowMatch

variable {op : Op} {w : Command}

/-- Every mask keeps the whole opcode. -/
theorem opField_mask (op : Op) : opField op.mask = BitVec.allOnes 8 := by cases op <;> rfl

theorem opField_pattern (op : Op) : opField op.pattern = op.code := by cases op <;> rfl

/-- A word that matches a row has the row's opcode, so it matches no other row. -/
theorem opField_of_match (h : w &&& op.mask = op.pattern) : opField w = op.code := by
  have hmasked : opField w &&& opField op.mask = opField op.pattern := by
    rw [← h]; exact BitVec.extractLsb'_and.symm
  rwa [opField_mask, opField_pattern, BitVec.and_allOnes] at hmasked

/-- Below the opcode a word that matches a row has 0 in every bit of the row's mask. -/
theorem masked_eq_zero_of_match (h : w &&& op.mask = op.pattern) {start len : Nat} (hlen : start + len ≤ 24) :
    w.extractLsb' start len &&& op.mask.extractLsb' start len = 0 := by
  rw [← BitVec.extractLsb'_and, h, Op.pattern, BitVec.extractLsb'_append_eq_of_add_le hlen]
  exact BitVec.extractLsb'_zero

/-- A word that matches a row is the row's opcode with the word's own operand fields; each field may be replaced by one
that equals it where its must-be-zero bits are 0. -/
theorem commandWord_eq_of_match (h : w &&& op.mask = op.pattern) {rd rs1 rs2 : BitVec 4} {imm : BitVec 12}
    (hrd : rdField w &&& rdField op.mask = 0 → rd = rdField w)
    (hrs1 : rs1Field w &&& rs1Field op.mask = 0 → rs1 = rs1Field w)
    (hrs2 : rs2Field w &&& rs2Field op.mask = 0 → rs2 = rs2Field w)
    (himm : immField w &&& immField op.mask = 0 → imm = immField w) : commandWord op rd rs1 rs2 imm = w := by
  obtain rfl := hrd (masked_eq_zero_of_match h (by decide))
  obtain rfl := hrs1 (masked_eq_zero_of_match h (by decide))
  obtain rfl := hrs2 (masked_eq_zero_of_match h (by decide))
  obtain rfl := himm (masked_eq_zero_of_match h (by decide))
  rw [commandWord, ← opField_of_match h, word_eq_fields]

end RowMatch

/-! ## Decoding is matching a row -/

/-- Settles O3. The opcode of the word picks the row, so the row that matches is the one decoding tests. -/
theorem decodeIsRowMatch : Obligations.DecodeIsRowMatch := by
  intro c w i
  constructor
  · intro h
    rcases hop : Op.ofCode (opField w) with _ | op
    · simp [decode, hop] at h
    · simp only [decode, hop] at h
      split at h
      · cases h
      next hradix =>
      split at h
      · cases h
      next hmask =>
      split at h
      · cases h
      next hindex =>
      cases h
      exact ⟨op, by simpa using hradix, by simpa using hmask, by simpa using hindex, rfl⟩
  · rintro ⟨op, hradix, hmask, hindex, rfl⟩
    have hop : Op.ofCode (opField w) = some op := by rw [opField_of_match hmask, ofCode_code]
    have hpresent : (op.radixOnly && !c.rtPresent) = false := by simpa using hradix
    simp [decode, hop, hpresent, hmask, hindex]

/-! ## The commands of an instance -/

/-- An instance has a command when it has the command's row (R94). -/
theorem presentIn_iff (c : Config) (i : Instr) :
    i.presentIn c = true ↔ ((opOf i).radixOnly = true → c.rtPresent = true) := by
  cases i <;> simp [Instr.presentIn, opOf, Op.radixOnly]

/-- The position a word gives to its command is the one R95 compares. -/
theorem indexFits_operandsOf (c : Config) (op : Op) (w : Command) :
    (operandsOf op w).indexFits c = !indexOutOfRange c op w := by
  rw [Bool.eq_iff_iff]
  cases op <;> simp [operandsOf, Instr.indexFits, indexOutOfRange, mdtIndex_immField, mrtPosition_immField]

/-- The decoded command is one the instance has exactly when the row is present and the position in range. -/
theorem wellFormed_operandsOf (c : Config) (op : Op) (w : Command) :
    (operandsOf op w).wellFormed c = true ↔
      (op.radixOnly = true → c.rtPresent = true) ∧ indexOutOfRange c op w = false := by
  rw [Instr.wellFormed, Bool.and_eq_true, presentIn_iff, opOf_operandsOf, indexFits_operandsOf, Bool.not_eq_true']

/-! ## From a command to its word and back -/

/-- Every command's word matches the command's row. -/
theorem encode_and_mask (i : Instr) : encode i &&& (opOf i).mask = (opOf i).pattern := by
  suffices h : Laws.EncodeMatchesRow.Statement i from h.2
  cases i with
  | nop => exact Laws.EncodeMatchesRow.nop
  | vsel code => exact Laws.EncodeMatchesRow.vsel code
  | dtb => exact Laws.EncodeMatchesRow.dtb
  | rtb => exact Laws.EncodeMatchesRow.rtb
  | ldx xd => exact Laws.EncodeMatchesRow.ldx xd
  | rdx xs => exact Laws.EncodeMatchesRow.rdx xs
  | mov xd xs => exact Laws.EncodeMatchesRow.mov xd xs
  | stf xd xs => exact Laws.EncodeMatchesRow.stf xd xs
  | stb xd xs => exact Laws.EncodeMatchesRow.stb xd xs
  | jdf xd xs xn => exact Laws.EncodeMatchesRow.jdf xd xs xn
  | jdb xd xs xn => exact Laws.EncodeMatchesRow.jdb xd xs xn
  | jrf xd xs xn => exact Laws.EncodeMatchesRow.jrf xd xs xn
  | jrb xd xs xn => exact Laws.EncodeMatchesRow.jrb xd xs xn
  | gix xd xs => exact Laws.EncodeMatchesRow.gix xd xs
  | gixr xd xs xo => exact Laws.EncodeMatchesRow.gixr xd xs xo
  | mcmp md ms1 ms2 => exact Laws.EncodeMatchesRow.mcmp md ms1 ms2
  | mapp xd ms1 xs => exact Laws.EncodeMatchesRow.mapp xd ms1 xs
  | msq md ms1 => exact Laws.EncodeMatchesRow.msq md ms1
  | mbase md d => exact Laws.EncodeMatchesRow.mbase md d
  | mdt md d k => exact Laws.EncodeMatchesRow.mdt md d k
  | mrt md d p v => exact Laws.EncodeMatchesRow.mrt md d p v
  | mid md => exact Laws.EncodeMatchesRow.mid md

/-- The fields of a command's word hold the command's operands. -/
theorem operandsOf_encode (i : Instr) : operandsOf (opOf i) (encode i) = i := by
  cases i with
  | mdt md d k => simpa [opOf, encode, operandsOf] using mdtIndex_imm k d
  | mrt md d p v => simp [opOf, encode, operandsOf, mrtPosition_imm, mrtValue_imm]
  | _ => simp [opOf, encode, operandsOf]

/-- Settles O1: the word of a command matches the command's row and holds its operands. -/
theorem decodeOfEncode : Obligations.DecodeOfEncode := by
  intro c i hwf
  rw [← operandsOf_encode i, wellFormed_operandsOf] at hwf
  obtain ⟨hradix, hindex⟩ := hwf
  refine (decodeIsRowMatch c (encode i) i).mpr ⟨opOf i, hradix, encode_and_mask i, hindex, ?_⟩
  exact (operandsOf_encode i).symm

/-- Settles O5: each word is its command's encoding. -/
theorem exampleWordsDecode : Obligations.ExampleWordsDecode :=
  ⟨decodeOfEncode _ (.vsel 2) rfl, decodeOfEncode _ (.mov 7 1) rfl, decodeOfEncode _ (.jdf 3 1 2) rfl,
    decodeOfEncode _ (.gixr 5 3 1) rfl, decodeOfEncode _ (.mapp 11 3 10) rfl,
    decodeOfEncode _ (.mrt 1 .backward 3 0xFF) rfl⟩

/-! ## From a word to its command and back -/

section Fields

variable {f : BitVec 4} {imm : BitVec 12}

theorem zero_eq_field (h : f &&& 0xF = 0) : 0 = f := h.symm.trans BitVec.and_allOnes

theorem zero_eq_imm (h : imm &&& 0xFFF = 0) : 0 = imm := h.symm.trans BitVec.and_allOnes

/-- The bits of an immediate are 0 where its mask has all bits. -/
theorem immBits_eq_zero {mask : BitVec 12} (h : imm &&& mask = 0) {start len : Nat}
    (hmask : mask.extractLsb' start len = BitVec.allOnes len) : imm.extractLsb' start len = 0 := by
  rw [← BitVec.and_allOnes (x := imm.extractLsb' start len), ← hmask, ← BitVec.extractLsb'_and, h]
  exact BitVec.extractLsb'_zero

/-- A register number keeps its whole field (R91). -/
@[simp] theorem regBits_regOf (f : BitVec 4) : regBits (regOf f) = f := by simp [regBits, regOf]

/-- Bit 3 of a map field is all that the map number does not keep (R91). -/
theorem mapBits_mapOf (h : f &&& 8 = 0) : mapBits (mapOf f) = f := by
  revert f; decide

/-- A direction is bit 0 of the immediate (R93). -/
theorem dirBit_dirOf (imm : BitVec 12) : dirBit (dirOf imm) = imm.extractLsb' 0 1 := by
  have hbit : imm.extractLsb' 0 1 = BitVec.ofBool (imm.getLsbD 0) := by ext k hk; simp; grind
  rw [hbit, dirOf]
  cases imm.getLsbD 0 <;> rfl

theorem mbaseImm_eq (h : imm &&& 0xFFE = 0) : (0 : BitVec 11) ++ dirBit (dirOf imm) = imm := by
  have hhigh : imm.extractLsb' 1 11 = 0 := immBits_eq_zero h rfl
  rw [dirBit_dirOf, ← hhigh]
  ext k hk; simp; grind

theorem mdtImm_eq (h : imm &&& 0xF00 = 0) : (0 : BitVec 4) ++ imm.extractLsb' 1 7 ++ dirBit (dirOf imm) = imm := by
  have hhigh : imm.extractLsb' 8 4 = 0 := immBits_eq_zero h rfl
  rw [dirBit_dirOf, ← hhigh]
  ext k hk; simp; grind

theorem mrtImm_eq (imm : BitVec 12) : imm.extractLsb' 4 8 ++ imm.extractLsb' 1 3 ++ dirBit (dirOf imm) = imm := by
  rw [dirBit_dirOf]
  ext k hk; simp; grind

end Fields

/-- A command read off a word by the row the word matches has that word. -/
theorem encode_operandsOf {op : Op} {w : Command} (h : w &&& op.mask = op.pattern) : encode (operandsOf op w) = w := by
  have reg {f m : BitVec 4} (_ : f &&& m = 0) : regBits (regOf f) = f := regBits_regOf f
  cases op with
  | nop | dtb | rtb =>
    exact commandWord_eq_of_match h zero_eq_field zero_eq_field zero_eq_field zero_eq_imm
  | vsel => exact commandWord_eq_of_match h zero_eq_field zero_eq_field zero_eq_field fun _ => rfl
  | ldx => exact commandWord_eq_of_match h reg zero_eq_field zero_eq_field zero_eq_imm
  | rdx => exact commandWord_eq_of_match h zero_eq_field reg zero_eq_field zero_eq_imm
  | mov | stf | stb | gix => exact commandWord_eq_of_match h reg reg zero_eq_field zero_eq_imm
  | jdf | jdb | jrf | jrb | gixr => exact commandWord_eq_of_match h reg reg reg zero_eq_imm
  | mcmp => exact commandWord_eq_of_match h mapBits_mapOf mapBits_mapOf mapBits_mapOf zero_eq_imm
  | mapp => exact commandWord_eq_of_match h reg mapBits_mapOf reg zero_eq_imm
  | msq => exact commandWord_eq_of_match h mapBits_mapOf mapBits_mapOf zero_eq_field zero_eq_imm
  | mbase => exact commandWord_eq_of_match h mapBits_mapOf zero_eq_field zero_eq_field mbaseImm_eq
  | mdt => exact commandWord_eq_of_match h mapBits_mapOf zero_eq_field zero_eq_field mdtImm_eq
  | mrt => exact commandWord_eq_of_match h mapBits_mapOf zero_eq_field zero_eq_field fun _ => mrtImm_eq _
  | mid => exact commandWord_eq_of_match h mapBits_mapOf zero_eq_field zero_eq_field zero_eq_imm

/-- Settles O2: the row a word decodes by matches it, so its fields make up the whole word. -/
theorem encodeOfDecode : Obligations.EncodeOfDecode := by
  intro c w i hdec
  obtain ⟨op, hradix, hmask, hindex, rfl⟩ := (decodeIsRowMatch c w i).mp hdec
  exact ⟨encode_operandsOf hmask, (wellFormed_operandsOf c op w).mpr ⟨hradix, hindex⟩⟩

end Sys2Proof

/-! The affine-map algebra and the tables built with it (40_variant_and_tables.md sections 1 and 3): maps compose as they
act, a table entry is known by how often it applies its base map, and a base map that meets R212's precondition ends its
doubling table in `(1, 2^(W-1))`. -/

namespace Sys2Proof.Machine

/-! ## Composition (R121 to R123) -/

section Algebra

variable {w : Nat} (m m1 m2 m3 : AffineMap w) (s : BitVec w)

@[simp] theorem AffineMap.apply_compose : (m1.compose m2).apply s = m2.apply (m1.apply s) := by
  simp only [AffineMap.apply, AffineMap.compose]
  ring

theorem AffineMap.compose_assoc : (m1.compose m2).compose m3 = m1.compose (m2.compose m3) := by
  simp only [AffineMap.compose, AffineMap.mk.injEq]
  constructor <;> ring

@[simp] theorem AffineMap.ident_compose : (AffineMap.ident w).compose m = m := by
  simp [AffineMap.compose, AffineMap.ident]

@[simp] theorem AffineMap.compose_ident : m.compose (AffineMap.ident w) = m := by
  simp [AffineMap.compose, AffineMap.ident]

@[simp] theorem AffineMap.apply_ident : (AffineMap.ident w).apply s = s := by
  simp [AffineMap.apply, AffineMap.ident]

theorem AffineMap.square_eq_compose : m.square = m.compose m := by
  simp only [AffineMap.square, AffineMap.compose, AffineMap.mk.injEq, true_and]
  ring

theorem AffineMap.square_apply : m.square.apply s = m.apply (m.apply s) := by
  rw [AffineMap.square_eq_compose, AffineMap.apply_compose]

/-- Composing with a power is composing with the map that many times. -/
theorem AffineMap.compose_power (k : Nat) :
    m1.compose ((fun n => AffineMap.compose n m)^[k] (AffineMap.ident w)) =
      (fun n => AffineMap.compose n m)^[k] m1 := by
  induction k with
  | zero => exact m1.compose_ident
  | succ k ih => rw [Function.iterate_succ_apply', Function.iterate_succ_apply', ← AffineMap.compose_assoc, ih]

end Algebra

/-- Settles O35: a power composed onto another adds to its number of factors; the examples are computed. -/
theorem compositionLaws : Obligations.CompositionLaws := by
  intro w
  refine ⟨AffineMap.apply_compose, AffineMap.compose_assoc, fun m j k => ?_, by decide, by decide⟩
  rw [AffineMap.compose_power, Nat.add_comm, Function.iterate_add_apply]

/-- Settles O36. -/
theorem squareAndIdentity : Obligations.SquareAndIdentity := fun _ m s =>
  ⟨rfl, m.square_eq_compose, m.square_apply s, m.ident_compose, m.compose_ident, AffineMap.apply_ident s⟩

/-! ## The doubling table (R127) -/

theorem doublingTable_getElem_eq {w : Nat} (base : AffineMap w) (i : Nat) (h : i < w) :
    (doublingTable base)[i] = AffineMap.square^[i] base := by
  rw [doublingTable_getElem, squarings_getElem]

/-- `i` squarings apply the map `2^i` times. -/
theorem AffineMap.apply_iterate_square {w : Nat} (m : AffineMap w) (i : Nat) :
    (AffineMap.square^[i] m).apply = m.apply^[2 ^ i] := by
  induction i generalizing m with
  | zero => rfl
  | succ i ih =>
    have twice : m.square.apply = m.apply^[2] := funext m.square_apply
    rw [Function.iterate_succ_apply, ih, twice, ← Function.iterate_mul, Nat.pow_succ']

theorem doublingTable_getElem_apply {w : Nat} (base : AffineMap w) (i : Nat) (h : i < w) :
    (doublingTable base)[i].apply = base.apply^[2 ^ i] := by
  rw [doublingTable_getElem_eq, AffineMap.apply_iterate_square]

/-- The form of the `i`-th squaring of a map that meets R212's precondition: a multiplier that is 1 modulo `2^(i+2)` and
an increment that is an odd multiple of `2^i`. -/
def AffineMap.SquaredForm {w : Nat} (i : Nat) (m : AffineMap w) : Prop :=
  ∃ c d : Nat, m = { a := BitVec.ofNat w (1 + 2 ^ (i + 2) * c), b := BitVec.ofNat w (2 ^ i * (1 + 2 * d)) }

theorem AffineMap.invertible.squaredForm {w : Nat} {m : AffineMap w} (h : m.invertible) : m.SquaredForm 0 := by
  obtain ⟨ha, hb⟩ := h
  refine ⟨m.a.toNat / 4, m.b.toNat / 2, ?_⟩
  have ea : 1 + 2 ^ (0 + 2) * (m.a.toNat / 4) = m.a.toNat := by omega
  have eb : 2 ^ 0 * (1 + 2 * (m.b.toNat / 2)) = m.b.toNat := by omega
  rw [ea, eb, BitVec.ofNat_toNat, BitVec.ofNat_toNat, BitVec.setWidth_eq, BitVec.setWidth_eq]

theorem AffineMap.SquaredForm.square {w i : Nat} {m : AffineMap w} (h : m.SquaredForm i) :
    m.square.SquaredForm (i + 1) := by
  obtain ⟨c, d, rfl⟩ := h
  refine ⟨c + 2 ^ (i + 1) * c ^ 2, d + 2 ^ i * c * (1 + 2 * d), ?_⟩
  simp only [AffineMap.square, AffineMap.mk.injEq]
  constructor
  · rw [← BitVec.ofNat_mul]
    congr 1
    ring
  · have one : (1 : BitVec w) = BitVec.ofNat w 1 := rfl
    rw [one, ← BitVec.ofNat_add, ← BitVec.ofNat_mul]
    congr 1
    ring

theorem AffineMap.SquaredForm.iterate_square {w : Nat} {m : AffineMap w} (h : m.SquaredForm 0) (i : Nat) :
    (AffineMap.square^[i] m).SquaredForm i := by
  induction i with
  | zero => exact h
  | succ i ih => rw [Function.iterate_succ_apply']; exact ih.square

/-- At the last position the form leaves one map: what distinguishes its members is a multiple of `2^W`. -/
theorem AffineMap.SquaredForm.eq_last {k : Nat} {m : AffineMap (k + 1)} (h : m.SquaredForm k) :
    m = { a := 1, b := BitVec.twoPow (k + 1) k } := by
  obtain ⟨c, d, rfl⟩ := h
  have ea : 1 + 2 ^ (k + 2) * c = 1 + 2 ^ (k + 1) * (2 * c) := by ring
  have eb : 2 ^ k * (1 + 2 * d) = 2 ^ k + 2 ^ (k + 1) * d := by ring
  simp only [AffineMap.mk.injEq]
  constructor <;> apply BitVec.eq_of_toNat_eq
  · rw [BitVec.toNat_ofNat, ea, Nat.add_mul_mod_self_left]
    rfl
  · rw [BitVec.toNat_ofNat, eb, Nat.add_mul_mod_self_left, BitVec.toNat_twoPow]

/-- Settles O37: an entry is an iterated square of the base, which says what it does and which form it has. -/
theorem doublingTableEntries : Obligations.DoublingTableEntries := by
  intro w base
  refine ⟨fun h => doublingTable_getElem_eq base 0 h, fun i h => ?_,
    fun i h => congrFun (doublingTable_getElem_apply base i h), fun h hinv => ?_⟩
  · rw [doublingTable_getElem_eq, doublingTable_getElem_eq, Function.iterate_succ_apply']
    rfl
  · obtain ⟨k, rfl⟩ := Nat.exists_eq_add_of_lt h
    rw [doublingTable_getElem_eq]
    exact (hinv.squaredForm.iterate_square _).eq_last

/-! ## The radix table (R128) -/

/-- A radix entry composes the doubling entries of the set bits. -/
theorem radixEntry_eq_foldl_filter {w : Nat} (t : DoublingTable w) (p : Fin (w / 8)) (v : BitVec 8) :
    radixEntry t p v =
      ((List.finRange 8).filter fun j => v.getLsbD j.val).foldl
        (fun m j => m.compose (t[8 * p.val + j.val]'(by omega))) (AffineMap.ident w) :=
  List.foldl_filter.symm

/-- Composing the maps of some positions, then applying, is applying them in turn. -/
theorem apply_foldl_compose {w : Nat} {α : Type} (c : α → Bool) (e : α → AffineMap w) (l : List α) (m : AffineMap w)
    (s : BitVec w) :
    (l.foldl (fun m j => if c j then m.compose (e j) else m) m).apply s =
      l.foldl (fun s j => if c j then (e j).apply s else s) (m.apply s) := by
  induction l generalizing m with
  | nil => rfl
  | cons j l ih =>
    rw [List.foldl_cons, List.foldl_cons, ih]
    cases c j with
    | true => simp
    | false => simp

/-- Maps that apply a base map `2^(k+j)` times, applied in turn at the set bits `j < n` of a word, apply it the word's
low `n` bits times `2^k`. -/
theorem foldl_apply_setBits {w k n u : Nat} (base : AffineMap w) (e : Fin n → AffineMap w)
    (he : ∀ j, (e j).apply = base.apply^[2 ^ (k + j.val)]) (v : BitVec u) (s : BitVec w) :
    (List.finRange n).foldl (fun s j => if v.getLsbD j.val then (e j).apply s else s) s =
      base.apply^[v.toNat % 2 ^ n * 2 ^ k] s := by
  induction n with
  | zero => simp [Nat.mod_one]
  | succ n ih =>
    have low := ih (fun j => e j.castSucc) (fun j => he j.castSucc)
    have count : v.toNat % 2 ^ (n + 1) = 2 ^ n * (v.getLsbD n).toNat + v.toNat % 2 ^ n := by
      rw [← BitVec.testBit_toNat, Nat.toNat_testBit, Nat.mod_pow_succ, Nat.add_comm]
    rw [List.finRange_succ_last, List.foldl_append, List.foldl_map]
    simp only [Fin.val_castSucc, List.foldl_cons, List.foldl_nil, Fin.val_last, low, count, he (Fin.last n)]
    cases v.getLsbD n with
    | false => simp
    | true =>
      have pow : 2 ^ (k + n) = 2 ^ n * 2 ^ k := by rw [Nat.pow_add, Nat.mul_comm]
      simp [← Function.iterate_add_apply, Nat.add_mul, pow]

/-- Over the table of a base map the entries of the set bits of `v` add up to `v * 2^(8p)` applications. -/
theorem radixEntry_doublingTable_apply {w : Nat} (base : AffineMap w) (p : Fin (w / 8)) (v : BitVec 8)
    (s : BitVec w) :
    (radixEntry (doublingTable base) p v).apply s = base.apply^[v.toNat * 2 ^ (8 * p.val)] s := by
  have bits := foldl_apply_setBits base _
    (fun j : Fin 8 => doublingTable_getElem_apply base (8 * p.val + j.val) (by omega)) v s
  rw [Nat.mod_eq_of_lt v.isLt] at bits
  rw [radixEntry, apply_foldl_compose, AffineMap.apply_ident]
  exact bits

/-- Settles O38: of 0 no bit is set and of `2^j` only bit `j`; an entry over the table of a base map is the lemma above. -/
theorem radixTableEntries : Obligations.RadixTableEntries := by
  intro w t base p hp
  refine ⟨?_, fun j hj => ?_, fun v hv s => ?_⟩
  · have noBit : ((List.finRange 8).filter fun k => (BitVec.ofNat 8 0).getLsbD k.val) = [] := by decide
    rw [radixTable_getElem, radixEntry_eq_foldl_filter, noBit]
    rfl
  · have oneBit : ∀ j : Fin 8,
        ((List.finRange 8).filter fun k => (BitVec.ofNat 8 (2 ^ j.val)).getLsbD k.val) = [j] := by decide
    rw [radixTable_getElem, radixEntry_eq_foldl_filter, oneBit ⟨j, hj⟩]
    exact AffineMap.ident_compose _
  · rw [radixTable_getElem, radixEntry_doublingTable_apply, BitVec.toNat_ofNat, Nat.mod_eq_of_lt hv]

end Sys2Proof.Machine

/-! The variant registry (40_variant_and_tables.md R124 to R126): which codes an instance supports, and what their rows
meet. -/

namespace Sys2Proof.Machine

section Support

variable {c : Config} {code : Nat} {r : VariantRow}

theorem supportedParams_of_row (h : variantRow c code = some r) (hw : r.width = c.width) :
    supportedParams c code = some (r.params c.width.bits) := by
  simp [supportedParams, h, hw]

/-- A code is unsupported when no row of the instance's width stands behind it. -/
theorem supportedParams_eq_none (h : ∀ r, variantRow c code = some r → r.width ≠ c.width) :
    supportedParams c code = none := by
  cases hp : supportedParams c code with
  | none => rfl
  | some p =>
    obtain ⟨r, hr, hw, -⟩ := supportedParams_some hp
    exact absurd hw (h r hr)

/-- Row 4 is the one of width 64. -/
theorem variantRow_width (h : variantRow c code = some r) : r.width = if code = 4 then .w64 else .w32 := by
  match code, h with
  | 0, h | 1, h | 2, h | 4, h =>
    cases h
    rfl
  | 3, h =>
    simp only [variantRow, Option.ite_none_right_eq_some, Option.some.injEq] at h
    obtain ⟨-, rfl⟩ := h
    rfl
  | _ + 5, h => cases h

end Support

/-- Settles O24: the rows of the table have their constants, and a code without a row of the instance's width is
unsupported. -/
theorem registryRows : Obligations.RegistryRows := by
  intro c
  refine ⟨rfl, rfl, rfl, ?_, rfl, rfl, rfl, fun code hcode => ?_, fun code hcode => ?_⟩
  · rw [supportedParams_of_row (code := 3) rfl rfl]
    simp [VariantRow.params, Width.bits]
  · refine supportedParams_eq_none fun r hr => ?_
    rw [variantRow_width hr, if_neg (by omega)]
    simp
  · exact supportedParams_eq_none fun r hr => absurd (variantRow_lt hr) (by omega)

/-- What `RegistrySound` asks of a row at the row's own width, both directions invertible. -/
def VariantRow.Printed (r : VariantRow) : Prop :=
  (r.params r.width.bits).sound ∧
    (r.params r.width.bits).forward.invertible ∧ (r.params r.width.bits).backward.invertible

/-- The rows whose constants the spec prints meet R126, and both directions meet R212's precondition. -/
theorem printed_of_variantRow {c : Config} {code : Nat} {r : VariantRow} (h : variantRow c code = some r)
    (h3 : code ≠ 3) : r.Printed := by
  unfold VariantRow.Printed
  match code, h, h3 with
  | 0, h, _ | 1, h, _ | 2, h, _ | 4, h, _ =>
    cases h
    decide
  | 3, _, h3 => exact absurd rfl h3
  | _ + 5, h, _ => cases h

/-- The row of ReverseStdLCG meets R126 when its open literals do (R125). -/
theorem sound_of_revstdRow {c : Config} {r : VariantRow} (h : variantRow c 3 = some r) (hc : c.revstdSound) :
    (r.params r.width.bits).sound := by
  simp only [variantRow, Option.ite_none_right_eq_some, Option.some.injEq] at h
  obtain ⟨hpresent, rfl⟩ := h
  simp only [VariantRow.params, Width.bits, BitVec.setWidth_setWidth_of_le _ (by decide : 32 ≤ 64), BitVec.setWidth_eq]
  exact hc hpresent

/-- Settles O46. -/
theorem registrySound : Obligations.RegistrySound := by
  intro c code p hc hp
  obtain ⟨r, hr, hw, rfl⟩ := supportedParams_some hp
  rw [← hw]
  by_cases h3 : code = 3
  · subst h3
    exact ⟨sound_of_revstdRow hr hc, fun h => absurd rfl h⟩
  · obtain ⟨hsound, hinv⟩ := printed_of_variantRow hr h3
    exact ⟨hsound, fun _ => hinv⟩

end Sys2Proof.Machine

/-! The setup and transfer commands (40_variant_and_tables.md R130 to R133; 44_register_transfer.md R230 to R232), and
where a command names a table the instance does not have (60_exceptions.md R257). -/

namespace Sys2Proof.Machine

/-- Settles O22. -/
theorem transferResults : Obligations.TransferResults := fun _ _ _ => ⟨rfl, rfl, rfl, rfl⟩

theorem exec_vsel_supported {s : State} {code : BitVec 12} {p : ParamSet s.cfg.width.bits}
    (h : supportedParams s.cfg code.toNat = some p) : exec (.vsel code) s = s.commit (s.blk.select p code) := by
  simp [exec, execVsel, h]

theorem exec_vsel_unsupported {s : State} {code : BitVec 12} (h : supportedParams s.cfg code.toNat = none) :
    exec (.vsel code) s = s.raise .illegalVariant (encode (.vsel code)) := by
  simp [exec, execVsel, h]

/-- Settles O23. -/
theorem vselResult : Obligations.VselResult := fun _ _ => ⟨fun _ h => exec_vsel_supported h, exec_vsel_unsupported⟩

/-- The tables a command reads are the stored ones, or those of the parameters when none are stored. -/
theorem Block.doubling_eq_of_stored_or_built {w : Nat} {b : Block w} {t : BothWays (DoublingTable w)}
    (h : b.dt = some t ∨ b.dt = none ∧ t = doublingTables b.p) : b.doubling = t := by
  obtain h | ⟨h, rfl⟩ := h
  · simp [Block.doubling, h]
  · simp [Block.doubling, h]

/-- Settles O26: past their checks the two commands build. -/
theorem tableBuilders : Obligations.TableBuilders := by
  intro s hv
  refine ⟨congrArg s.commit (Block.needParams_valid hv _ _), fun hr t ht => ?_⟩
  have built : s.blk.buildRT = { s.blk with dt := some t, rt := some (radixTables t) } := by
    rw [Block.buildRT_eq, Block.doubling_eq_of_stored_or_built ht]
  have checked : s.blk.needRadix s.cfg .rtb (s.blk.needParams .rtb s.blk.buildRT) = s.blk.buildRT := by
    rw [Block.needRadix_present _ hr, Block.needParams_valid hv]
  exact congrArg s.commit (checked.trans built)

/-! ## Absent tables and positions -/

theorem exec_mdt_outOfRange {s : State} {i : BitVec 7} (h : s.cfg.width.bits ≤ i.toNat) (md : MapNum) (d : Dir) :
    exec (.mdt md d i) s = s.raise .indexRange (encode (.mdt md d i)) :=
  dif_neg (Nat.not_lt.mpr h)

theorem exec_mrt_outOfRange {s : State} {p : BitVec 3} (hr : s.cfg.rtPresent = true)
    (h : s.cfg.width.bits / 8 ≤ p.toNat) (md : MapNum) (d : Dir) (v : BitVec 8) :
    exec (.mrt md d p v) s = s.raise .indexRange (encode (.mrt md d p v)) :=
  congrArg s.commit ((Block.needRadix_present _ hr _ _).trans (dif_neg (Nat.not_lt.mpr h)))

/-- Settles O21: the radix check comes first, then the position, then NO_VARIANT. -/
theorem absentTablePositionFaults : Obligations.AbsentTablePositionFaults := by
  intro s xd xs xn md d i p v
  refine ⟨fun hr => ?_, fun h => exec_mdt_outOfRange h md d, fun hr h => exec_mrt_outOfRange hr h md d v⟩
  have absent (i : Instr) (e : Block s.cfg.width.bits) :
      s.commit (s.blk.needRadix s.cfg i e) = s.raise .illegalOpcode (encode i) :=
    congrArg s.commit (Block.needRadix_absent _ hr i e)
  exact ⟨absent _ _, absent _ _, absent _ _, absent _ _⟩

end Sys2Proof.Machine

/-! The composer commands (41_affine_map_composer.md R150 to R156): past its checks each one writes a map to a register
pair, or a value to a register, and a command that reads a table leaves it stored (40_variant_and_tables.md R129). -/

namespace Sys2Proof.Machine

/-! ## A map write and the tables it reads -/

/-- A map write changes the register pair and nothing else (10_state.md R21). -/
theorem Block.setMap_eq {w : Nat} (b : Block w) (k : MapNum) (m : AffineMap w) :
    b.setMap k m = { b with x := (b.x.set (2 * k.val) m.a).set (2 * k.val + 1) m.b } := rfl

theorem Block.radix_valid {w : Nat} {b : Block w} {r : BothWays (RadixTable w)} (h : b.rt = some r) : b.radix = r := by
  simp [Block.radix, h]

theorem Block.radix_invalid {w : Nat} {b : Block w} (h : b.rt = none) : b.radix = radixTables b.doubling := by
  simp [Block.radix, h]

/-! ## Loading a map -/

theorem exec_mbase_valid {s : State} (hv : s.blk.pvalid = true) (md : MapNum) (d : Dir) :
    exec (.mbase md d) s = s.commit (s.blk.setMap md (s.blk.p.base d)) :=
  congrArg s.commit (Block.needParams_valid hv _ _)

/-- Settles O31. -/
theorem mapLoadResults : Obligations.MapLoadResults := fun s md =>
  ⟨congrArg s.commit (Block.setMap_eq _ md _), fun hv =>
    ⟨exec_mbase_valid hv md .forward, exec_mbase_valid hv md .backward⟩⟩

theorem exec_mdt_inRange {s : State} {i : BitVec 7} (h : i.toNat < s.cfg.width.bits) (hv : s.blk.pvalid = true)
    (md : MapNum) (d : Dir) :
    exec (.mdt md d i) s = s.commit (s.blk.ensureDT.setMap md (s.blk.doubling.get d)[i.toNat]) :=
  (dif_pos h).trans (congrArg s.commit (Block.needParams_valid hv _ _))

/-- Settles O32: `EnsureDT` stores the tables the entry is read from. -/
theorem mdtResult : Obligations.MdtResult := by
  intro s md d i t h hv ht
  have inForce : s.blk.doubling = t := Block.doubling_eq_of_stored_or_built ht
  rw [exec_mdt_inRange h hv, Block.ensureDT_eq, Block.setMap_eq, inForce]
  rfl

theorem exec_mrt_inRange {s : State} {p : BitVec 3} (h : p.toNat < s.cfg.width.bits / 8) (hv : s.blk.pvalid = true)
    (hr : s.cfg.rtPresent = true) (md : MapNum) (d : Dir) (v : BitVec 8) :
    exec (.mrt md d p v) s = s.commit (s.blk.ensureRT.setMap md (s.blk.radix.get d)[p.toNat][v.toNat]) :=
  congrArg s.commit <|
    (Block.needRadix_present _ hr _ _).trans ((dif_pos h).trans (Block.needParams_valid hv _ _))

/-- Settles O33: `EnsureRT` leaves valid radix tables alone and otherwise stores both tables. -/
theorem mrtResult : Obligations.MrtResult := by
  intro s md d p v r h hv hr
  refine ⟨fun hrt => ?_, fun t hrt ht hbuilt => ?_⟩
  · rw [exec_mrt_inRange h hv hr, Block.ensureRT_valid hrt, Block.setMap_eq, Block.radix_valid hrt]
    rfl
  · have inForce : s.blk.doubling = t := Block.doubling_eq_of_stored_or_built ht
    have built : s.blk.radix = r := by rw [Block.radix_invalid hrt, inForce, hbuilt]
    rw [exec_mrt_inRange h hv hr, Block.ensureRT_invalid hrt, Block.setMap_eq, built, inForce]
    rfl

/-! ## Composing and applying maps -/

/-- Settles O34: each result is a function of the block before the command. -/
theorem composerResults : Obligations.ComposerResults := fun s md m1 m2 _ _ =>
  ⟨congrArg s.commit (Block.setMap_eq s.blk md ((s.blk.getMap m1).compose (s.blk.getMap m2))),
    congrArg s.commit (Block.setMap_eq s.blk md (s.blk.getMap m1).square), rfl⟩

end Sys2Proof.Machine

/-! The jumps (42_seed_stepper.md R182, R185, R188, R189): over the table of a base map a jump is that map applied a number
of times, the map's order divides `2^W`, and so jumps are counted modulo `2^W`. -/

namespace Sys2Proof.Machine

/-! ## The doubling jump (R182) -/

theorem jumpD_doublingTable {w : Nat} (base : AffineMap w) (s n : BitVec w) :
    jumpD (doublingTable base) s n = base.apply^[n.toNat] s := by
  have bits := foldl_apply_setBits (k := 0) base _
    (fun i : Fin w => by rw [Nat.zero_add]; exact doublingTable_getElem_apply base i.val i.isLt) n s
  rw [Nat.mod_eq_of_lt n.isLt, Nat.pow_zero, Nat.mul_one] at bits
  exact bits

/-- Settles O39. -/
theorem jumpIsIteratedStep : Obligations.JumpIsIteratedStep := fun _ => jumpD_doublingTable

/-- Two entries of one table commute, since both are iterates of its base map. -/
theorem doublingTable_apply_comm {w : Nat} (base : AffineMap w) (i j : Fin w) (s : BitVec w) :
    (doublingTable base)[i].apply ((doublingTable base)[j].apply s) =
      (doublingTable base)[j].apply ((doublingTable base)[i].apply s) := by
  simp only [Fin.getElem_fin, doublingTable_getElem_apply]
  exact (Function.Commute.iterate_iterate_self base.apply _ _) s

/-- Settles O40: a fold whose steps commute does not see their order. -/
theorem foldOrderNotObservable : Obligations.FoldOrderNotObservable := by
  intro w base s n order horder
  refine horder.foldl_eq' (fun i _ j _ s => ?_) s
  cases n.getLsbD i.val with
  | false => rfl
  | true =>
    cases n.getLsbD j.val with
    | false => rfl
    | true => exact doublingTable_apply_comm base j i s

/-! ## The radix jump (R185, R188) -/

/-- Bit `j` of byte `p` of a count is its bit `8p + j` (20_memory.md R60). -/
theorem getLsbD_byteOf {w : Nat} (n : BitVec w) (p : Nat) {j : Nat} (hj : j < 8) :
    (byteOf n p).getLsbD j = n.getLsbD (8 * p + j) := by
  simp [byteOf, hj]

/-- A fold over the positions of a whole number of bytes goes byte by byte. -/
theorem foldl_finRange_bytes {α : Type} {w k : Nat} (hw : 8 * k = w) (f : α → Fin w → α) (a : α) :
    (List.finRange w).foldl f a =
      (List.finRange k).foldl
        (fun a p => (List.finRange 8).foldl (fun a j => f a ⟨8 * p.val + j.val, by omega⟩) a) a := by
  subst hw
  rw [← List.ofFn_id, List.ofFn_mul', List.foldl_flatten, List.ofFn_eq_map, List.foldl_map]
  simp only [List.ofFn_eq_map, List.foldl_map, id]

/-- A radix entry applies the doubling entries of its byte's set bits in turn. -/
theorem radixEntry_apply {w : Nat} (t : DoublingTable w) (p : Fin (w / 8)) (v : BitVec 8) (s : BitVec w) :
    (radixEntry t p v).apply s =
      (List.finRange 8).foldl
        (fun s j => if v.getLsbD j.val then (t[8 * p.val + j.val]'(by omega)).apply s else s) s := by
  rw [radixEntry, apply_foldl_compose, AffineMap.apply_ident]

/-- Where the width is a whole number of bytes, the bytes of a count in turn are its bits in turn. -/
theorem jumpR_radixTable {w : Nat} (hw : 8 * (w / 8) = w) (t : DoublingTable w) (s n : BitVec w) :
    jumpR (radixTable t) s n = jumpD t s n := by
  rw [jumpR, jumpD, foldl_finRange_bytes hw]
  congr 1
  funext s p
  have entry : (radixTable t)[p][(byteOf n p.val).toNat]'(byteOf n p.val).isLt = radixEntry t p (byteOf n p.val) := by
    rw [Fin.getElem_fin, radixTable_getElem, BitVec.ofNat_toNat, BitVec.setWidth_eq]
  rw [entry, radixEntry_apply]
  simp only [getLsbD_byteOf n p.val (Fin.isLt _), Fin.getElem_fin]

theorem Width.bytes_bits (c : Width) : 8 * (c.bits / 8) = c.bits := by cases c <;> rfl

/-- Settles O41: both widths are whole numbers of bytes. -/
theorem radixJumpEqualsDoublingJump : Obligations.RadixJumpEqualsDoublingJump :=
  fun c => jumpR_radixTable (Width.bytes_bits c)

/-! ## The order of a base map (R189) -/

/-- The form of the `i`-th squaring of a map with an odd multiplier: weaker than `SquaredForm`, as R126 asks less of a map
than R212. -/
def AffineMap.OddForm {w : Nat} (i : Nat) (m : AffineMap w) : Prop :=
  ∃ c d : BitVec w, m.a = 1 + 2 ^ (i + 1) * c ∧ m.b = 2 ^ i * d

theorem AffineMap.oddForm_of_odd {w : Nat} {m : AffineMap w} (h : m.a.getLsbD 0 = true) : m.OddForm 0 := by
  refine ⟨BitVec.ofNat w (m.a.toNat / 2), m.b, ?_, by simp⟩
  have odd : m.a.toNat = 1 + 2 * (m.a.toNat / 2) := by
    have bit : m.a.toNat.testBit 0 = true := h
    rw [Nat.testBit_zero, decide_eq_true_eq] at bit
    omega
  calc m.a = BitVec.ofNat w (1 + 2 * (m.a.toNat / 2)) := by rw [← odd, BitVec.ofNat_toNat, BitVec.setWidth_eq]
    _ = 1 + 2 ^ (0 + 1) * BitVec.ofNat w (m.a.toNat / 2) := by
      rw [BitVec.ofNat_add, BitVec.ofNat_mul, Nat.zero_add, pow_one]
      rfl

theorem AffineMap.OddForm.square {w i : Nat} {m : AffineMap w} (h : m.OddForm i) : m.square.OddForm (i + 1) := by
  obtain ⟨c, d, ha, hb⟩ := h
  refine ⟨c + 2 ^ i * c ^ 2, d * (1 + 2 ^ i * c), ?_, ?_⟩
  · simp only [AffineMap.square, ha]
    ring
  · simp only [AffineMap.square, ha, hb]
    ring

theorem AffineMap.OddForm.iterate_square {w : Nat} {m : AffineMap w} (h : m.OddForm 0) (i : Nat) :
    (AffineMap.square^[i] m).OddForm i := by
  induction i with
  | zero => exact h
  | succ i ih => rw [Function.iterate_succ_apply']; exact ih.square

theorem two_pow_width (w : Nat) : (2 : BitVec w) ^ w = 0 :=
  BitVec.eq_of_toNat_eq (by simp [← Nat.pow_mod])

/-- `W` squarings leave the identity. -/
theorem AffineMap.OddForm.eq_ident {w : Nat} {m : AffineMap w} (h : m.OddForm w) : m = .ident w := by
  obtain ⟨c, d, ha, hb⟩ := h
  obtain ⟨a, b⟩ := m
  simp only [pow_succ, two_pow_width, zero_mul, add_zero] at ha hb
  rw [ha, hb]
  rfl

/-- The order of a base map with an odd multiplier divides `2^W`. -/
theorem AffineMap.apply_isPeriodicPt {w : Nat} {m : AffineMap w} (h : m.a.getLsbD 0 = true) (s : BitVec w) :
    Function.IsPeriodicPt m.apply (2 ^ w) s := by
  have ident := ((oddForm_of_odd h).iterate_square w).eq_ident
  rw [Function.IsPeriodicPt, Function.IsFixedPt, ← m.apply_iterate_square w, ident, AffineMap.apply_ident]

/-- Jumps add modulo `2^W`. -/
theorem jumpD_jumpD {w : Nat} {m : AffineMap w} (h : m.a.getLsbD 0 = true) (s n1 n2 : BitVec w) :
    jumpD (doublingTable m) (jumpD (doublingTable m) s n1) n2 = jumpD (doublingTable m) s (n1 + n2) := by
  simp only [jumpD_doublingTable]
  rw [← Function.iterate_add_apply, BitVec.toNat_add, (m.apply_isPeriodicPt h s).iterate_mod_apply, Nat.add_comm]

/-! ## Back and forth (R189) -/

section Sound

variable {w : Nat} {p : ParamSet w} (h : p.sound)
include h

theorem ParamSet.sound.odd : p.forward.a.getLsbD 0 = true := h.1

theorem ParamSet.sound.backward_forward (s : BitVec w) : p.backward.apply (p.forward.apply s) = s := by
  obtain ⟨-, hmul, hadd⟩ := h
  simp only [AffineMap.apply, ParamSet.forward, ParamSet.backward]
  linear_combination s * hmul + hadd

theorem ParamSet.sound.forward_backward (s : BitVec w) : p.forward.apply (p.backward.apply s) = s := by
  obtain ⟨-, hmul, hadd⟩ := h
  simp only [AffineMap.apply, ParamSet.forward, ParamSet.backward]
  linear_combination (s - p.add) * hmul + p.mul * hadd

theorem ParamSet.sound.jumpBack_jump (s n : BitVec w) :
    jumpD (doublingTable p.backward) (jumpD (doublingTable p.forward) s n) n = s := by
  rw [jumpD_doublingTable, jumpD_doublingTable]
  exact Function.LeftInverse.iterate h.backward_forward n.toNat s

/-- The seed `-n` steps forward of `s` is the one that `n` steps forward lead to `s`. -/
theorem ParamSet.sound.jumpBack_eq_jump_neg (s n : BitVec w) :
    jumpD (doublingTable p.backward) s n = jumpD (doublingTable p.forward) s (-n) := by
  have there : jumpD (doublingTable p.forward) (jumpD (doublingTable p.forward) s (-n)) n = s := by
    rw [jumpD_jumpD h.odd, neg_add_cancel, jumpD_doublingTable]
    simp
  calc jumpD (doublingTable p.backward) s n
      = jumpD (doublingTable p.backward)
          (jumpD (doublingTable p.forward) (jumpD (doublingTable p.forward) s (-n)) n) n := by rw [there]
    _ = jumpD (doublingTable p.forward) s (-n) := h.jumpBack_jump _ n

theorem ParamSet.sound.jump_allOnes (s : BitVec w) :
    jumpD (doublingTable p.forward) s (BitVec.allOnes w) = p.backward.apply s := by
  have one : (1#w).toNat = 1 := BitVec.toNat_one (BitVec.lt_of_getLsbD h.odd)
  rw [← BitVec.neg_one_eq_allOnes, ← h.jumpBack_eq_jump_neg, jumpD_doublingTable, one, Function.iterate_one]

end Sound

/-- Settles O42: jumps are counted modulo the order of the base map. -/
theorem stepperLaws : Obligations.StepperLaws := fun _ _ s n n1 n2 h =>
  ⟨h.backward_forward s, h.forward_backward s, h.jumpBack_jump s n, jumpD_jumpD h.odd s n1 n2,
    h.jumpBack_eq_jump_neg s n, h.jump_allOnes s⟩

end Sys2Proof.Machine

/-! The seed stepper commands (42_seed_stepper.md R180, R181, R183, R184, R186, R187): past its checks each one writes one
register, and leaves stored the tables it read. -/

namespace Sys2Proof.Machine

/-! ## Results over the tables in force -/

section Valid

variable {s : State} (hv : s.blk.pvalid = true) (xd xs xn : RegNum)
include hv

/-- Past NO_VARIANT an effect is the result. -/
theorem commit_needParams (i : Instr) (e : Block s.cfg.width.bits) : s.commit (s.blk.needParams i e) = s.commit e :=
  congrArg s.commit (Block.needParams_valid hv i e)

theorem commit_needRadix_needParams (hr : s.cfg.rtPresent = true) (i : Instr) (e : Block s.cfg.width.bits) :
    s.commit (s.blk.needRadix s.cfg i (s.blk.needParams i e)) = s.commit e := by
  rw [Block.needRadix_present _ hr, commit_needParams hv]

theorem exec_jdf_valid : exec (.jdf xd xs xn) s = s.commit (s.blk.jumpByDoubling .forward xd xs xn) :=
  commit_needParams hv _ _

theorem exec_jdb_valid : exec (.jdb xd xs xn) s = s.commit (s.blk.jumpByDoubling .backward xd xs xn) :=
  commit_needParams hv _ _

theorem exec_jrf_valid (hr : s.cfg.rtPresent = true) :
    exec (.jrf xd xs xn) s = s.commit (s.blk.jumpByRadix .forward xd xs xn) :=
  commit_needRadix_needParams hv hr _ _

theorem exec_jrb_valid (hr : s.cfg.rtPresent = true) :
    exec (.jrb xd xs xn) s = s.commit (s.blk.jumpByRadix .backward xd xs xn) :=
  commit_needRadix_needParams hv hr _ _

end Valid

/-- Settles O27: applying the base map is the whole effect. -/
theorem singleStepResults : Obligations.SingleStepResults := fun _ _ _ hv =>
  ⟨commit_needParams hv _ _, commit_needParams hv _ _⟩

/-- Settles O28: `EnsureDT` stores the tables the jump reads. -/
theorem doublingJumpResults : Obligations.DoublingJumpResults := by
  intro s xd xs xn t hv ht
  have inForce : s.blk.doubling = t := Block.doubling_eq_of_stored_or_built ht
  rw [exec_jdf_valid hv, exec_jdb_valid hv, Block.jumpByDoubling_eq, Block.jumpByDoubling_eq, inForce]
  exact ⟨rfl, rfl⟩

/-- A radix jump with valid radix tables uses them as they are. -/
theorem Block.jumpByRadix_valid {w : Nat} {b : Block w} {r : BothWays (RadixTable w)} (h : b.rt = some r) (d : Dir)
    (xd xs xn : RegNum) :
    b.jumpByRadix d xd xs xn = { b with x := b.x.set xd.val (jumpR (r.get d) (b.getX xs) (b.getX xn)) } := by
  rw [Block.jumpByRadix_eq, Block.ensureRT_valid h, Block.radix_valid h]

/-- A radix jump without them stores both tables. -/
theorem Block.jumpByRadix_invalid {w : Nat} {b : Block w} (h : b.rt = none) (d : Dir) (xd xs xn : RegNum) :
    b.jumpByRadix d xd xs xn =
      { b with
        x := b.x.set xd.val (jumpR ((radixTables b.doubling).get d) (b.getX xs) (b.getX xn))
        dt := some b.doubling
        rt := some (radixTables b.doubling) } := by
  rw [Block.jumpByRadix_eq, Block.ensureRT_invalid h, Block.radix_invalid h]

/-- Settles O29: `EnsureRT` leaves valid radix tables alone and otherwise stores both tables. -/
theorem radixJumpResults : Obligations.RadixJumpResults := by
  intro s xd xs xn hv hr
  rw [exec_jrf_valid hv _ _ _ hr, exec_jrb_valid hv _ _ _ hr]
  refine ⟨fun r hrt => ?_, fun t hrt ht => ?_⟩
  · rw [Block.jumpByRadix_valid hrt, Block.jumpByRadix_valid hrt]
    exact ⟨rfl, rfl⟩
  · have inForce : s.blk.doubling = t := Block.doubling_eq_of_stored_or_built ht
    rw [Block.jumpByRadix_invalid hrt, Block.jumpByRadix_invalid hrt, inForce]
    exact ⟨rfl, rfl⟩

/-! ## Results under the invariant (R189) -/

@[simp] theorem doublingTables_get {w : Nat} (p : ParamSet w) (d : Dir) :
    (doublingTables p).get d = doublingTable (p.base d) := by
  cases d <;> rfl

@[simp] theorem radixTables_get {w : Nat} (t : BothWays (DoublingTable w)) (d : Dir) :
    (radixTables t).get d = radixTable (t.get d) := by
  cases d <;> rfl

section Inv

variable {c : Config} {b : Block c.width.bits} (h : b.Inv c)
include h

/-- Under the invariant a doubling jump steps the seed by the base map, and leaves the parameters' tables valid. -/
theorem Block.Inv.jumpByDoubling_eq (d : Dir) (xd xs xn : RegNum) :
    b.jumpByDoubling d xd xs xn =
      { b with
        x := b.x.set xd.val ((b.p.base d).apply^[(b.getX xn).toNat] (b.getX xs))
        dt := some (doublingTables b.p) } := by
  rw [Block.jumpByDoubling_eq, h.doubling_eq, doublingTables_get, jumpD_doublingTable]

/-- Stored or built, after `EnsureRT` the tables are those of the parameters. -/
theorem Block.Inv.ensureRT_eq :
    b.ensureRT = { b with dt := some (doublingTables b.p), rt := some (radixTables (doublingTables b.p)) } := by
  rcases hr : b.rt with _ | r
  · rw [Block.ensureRT_invalid hr, h.doubling_eq, h.radix_eq]
  · obtain ⟨-, t, ht, hrt⟩ := h.radixOfDoubling r hr
    rw [Block.ensureRT_valid hr, ← h.doublingOfParams t ht, ← ht, ← hrt, ← hr]

/-- Under the invariant a radix jump steps the seed as the doubling jump does, and leaves both tables valid. -/
theorem Block.Inv.jumpByRadix_eq (d : Dir) (xd xs xn : RegNum) :
    b.jumpByRadix d xd xs xn =
      { b with
        x := b.x.set xd.val ((b.p.base d).apply^[(b.getX xn).toNat] (b.getX xs))
        dt := some (doublingTables b.p)
        rt := some (radixTables (doublingTables b.p)) } := by
  rw [Block.jumpByRadix_eq, h.ensureRT_eq, h.radix_eq, radixTables_get, doublingTables_get,
    jumpR_radixTable (Width.bytes_bits c.width), jumpD_doublingTable]

end Inv

/-- Settles O52: under the invariant the tables in force are those of the parameters, whose jumps iterate the base map. -/
theorem jumpCommandsIterateTheBaseMap : Obligations.JumpCommandsIterateTheBaseMap := by
  intro s xd xs xn h hv
  refine ⟨?_, ?_, fun hr => ⟨?_, ?_⟩⟩
  · rw [exec_jdf_valid hv, h.jumpByDoubling_eq]
    rfl
  · rw [exec_jdb_valid hv, h.jumpByDoubling_eq]
    rfl
  · rw [exec_jrf_valid hv _ _ _ hr, h.jumpByRadix_eq]
    rfl
  · rw [exec_jrb_valid hv _ _ _ hr, h.jumpByRadix_eq]
    rfl

end Sys2Proof.Machine

/-! The index inverter (43_index_inverter.md R210 to R212, R214): the iterative form unrolls to the recursive one, and its
rounds step a seed forward to 0, so the steps it counts, negated, lead from 0 to the seed. -/

namespace Sys2Proof.Machine

/-! ## The iterative and the recursive form (R210, R211) -/

theorem twoPow_eq_two_pow (w j : Nat) : BitVec.twoPow w j = 2 ^ j :=
  BitVec.eq_of_toNat_eq (by simp [← Nat.pow_mod])

/-- Rounds `j` to `j + k - 1` take from `T` what `k` levels of the recursion find, at weight `2^j`. -/
theorem foldl_invertRound_t {w : Nat} (k j : Nat) (r : InverterRegs w) :
    ((List.range' j k).foldl invertRound r).t = r.t - 2 ^ j * invert r.s r.a r.b k := by
  induction k generalizing j r with
  | zero => simp [invert]
  | succ k ih =>
    rw [List.range'_succ, List.foldl_cons, ih]
    cases hs : r.s.getLsbD 0 with
    | false =>
      simp only [invertRound, invert, hs, Bool.false_eq_true, if_false]
      ring
    | true =>
      simp only [invertRound, invert, hs, if_true, twoPow_eq_two_pow]
      ring

/-- Settles O43: all `W` rounds, from `T = 0`. -/
theorem invertIterIsInvert : Obligations.InvertIterIsInvert := by
  intro w s a b
  rw [invertIter, List.range_eq_range', foldl_invertRound_t]
  simp

/-! ## Halving -/

theorem two_mul_ushiftRight_one {w : Nat} {x : BitVec w} (h : x.toNat % 2 = 0) : (2 : BitVec w) * (x >>> 1) = x := by
  have halves : x.toNat / 2 + x.toNat / 2 = x.toNat := by omega
  rw [two_mul]
  apply BitVec.eq_of_toNat_eq
  rw [BitVec.toNat_add, BitVec.toNat_ushiftRight, Nat.shiftRight_one, halves, Nat.mod_eq_of_lt x.isLt]

section Invertible

variable {w : Nat} {m : AffineMap w} (h : m.invertible)
include h

theorem AffineMap.invertible.odd : m.a.getLsbD 0 = true := by
  obtain ⟨ha, -⟩ := h
  exact Nat.mod_two_eq_one_iff_testBit_zero.1 (by omega)

theorem AffineMap.invertible.width_pos : 0 < w := BitVec.lt_of_getLsbD h.odd

/-- A step changes the parity of a seed. -/
theorem AffineMap.invertible.apply_mod_two (s : BitVec w) : (m.apply s).toNat % 2 = (s.toNat + 1) % 2 := by
  have two_dvd : 2 ∣ 2 ^ w := dvd_pow_self 2 h.width_pos.ne'
  obtain ⟨ha, hb⟩ := h
  have ha2 : m.a.toNat % 2 = 1 := by omega
  rw [AffineMap.apply, BitVec.toNat_add, BitVec.toNat_mul, Nat.mod_mod_of_dvd _ two_dvd, Nat.add_mod,
    Nat.mod_mod_of_dvd _ two_dvd, Nat.mul_mod, ha2, hb]
  omega

/-- The increment of the square can be halved, which is the correction of 90_conflicts.md C1. -/
theorem AffineMap.invertible.square_add_even : m.square.b.toNat % 2 = 0 := by
  obtain ⟨c, d, hsquare⟩ := h.squaredForm.square
  rw [hsquare, BitVec.toNat_ofNat, Nat.mod_mod_of_dvd _ (dvd_pow_self 2 h.width_pos.ne')]
  omega

/-- The square with its increment halved meets R212's precondition again, where there are two bits to see it. -/
theorem AffineMap.invertible.halved_square (hw : 1 < w) :
    AffineMap.invertible { a := m.square.a, b := m.square.b >>> 1 } := by
  obtain ⟨c, d, hsquare⟩ := h.squaredForm.square
  have four_dvd : 4 ∣ 2 ^ w := Nat.pow_dvd_pow 2 hw
  have ha : m.square.a.toNat % 4 = (1 + 2 ^ (0 + 1 + 2) * c) % 4 := by
    rw [hsquare, BitVec.toNat_ofNat, Nat.mod_mod_of_dvd _ four_dvd]
  have hb : m.square.b.toNat % 4 = (2 ^ (0 + 1) * (1 + 2 * d)) % 4 := by
    rw [hsquare, BitVec.toNat_ofNat, Nat.mod_mod_of_dvd _ four_dvd]
  show m.square.a.toNat % 4 = 1 ∧ (m.square.b >>> 1).toNat % 2 = 1
  rw [BitVec.toNat_ushiftRight, Nat.shiftRight_one]
  omega

end Invertible

/-! ## The rounds step the seed to 0 (R212) -/

/-- The map whose seeds the registers hold. -/
def InverterRegs.map {w : Nat} (r : InverterRegs w) : AffineMap w := { a := r.a, b := r.b }

/-- What the registers hold before round `j` of the inversion of `seed`: `seed` stepped `T` times by the base map is
`2^j * s`, and `2^j` steps of the base map act on such multiples as the registers' map does on `s`. -/
structure InverterRegs.Tracks {w : Nat} (base : AffineMap w) (seed : BitVec w) (j : Nat) (r : InverterRegs w) :
    Prop where
  invertible : j < w → r.map.invertible
  iterate_square : AffineMap.square^[j] base = { a := r.a, b := 2 ^ j * r.b }
  jumpD_eq : jumpD (doublingTable base) seed r.t = 2 ^ j * r.s

theorem jumpD_zero {w : Nat} (base : AffineMap w) (s : BitVec w) : jumpD (doublingTable base) s 0 = s := by
  rw [jumpD_doublingTable]
  rfl

theorem jumpD_twoPow {w : Nat} (base : AffineMap w) (s : BitVec w) {j : Nat} (hj : j < w) :
    jumpD (doublingTable base) s (BitVec.twoPow w j) = (AffineMap.square^[j] base).apply s := by
  rw [jumpD_doublingTable, AffineMap.apply_iterate_square, BitVec.toNat_twoPow_of_lt hj]

section Tracks

variable {w : Nat} {base : AffineMap w} (hbase : base.invertible) {seed : BitVec w} {j : Nat} {r : InverterRegs w}
  (h : r.Tracks base seed j) (hj : j < w)
include h hj

theorem InverterRegs.Tracks.square_eq :
    AffineMap.square^[j + 1] base = { a := (invertRound r j).a, b := 2 ^ (j + 1) * (invertRound r j).b } := by
  have halved : (2 : BitVec w) * ((r.b * (1 + r.a)) >>> 1) = r.b * (1 + r.a) :=
    two_mul_ushiftRight_one (h.invertible hj).square_add_even
  rw [Function.iterate_succ_apply', h.iterate_square]
  simp only [AffineMap.square, invertRound, pow_succ, mul_assoc, halved]

include hbase

/-- An odd `s` is made even by one step of the registers' map, which is `2^j` steps of the base map. -/
theorem InverterRegs.Tracks.jumpD_round :
    jumpD (doublingTable base) seed (invertRound r j).t = 2 ^ (j + 1) * (invertRound r j).s := by
  rw [pow_succ, mul_assoc]
  cases hs : r.s.getLsbD 0 with
  | false =>
    have even : r.s.toNat % 2 = 0 := Nat.mod_two_eq_zero_iff_testBit_zero.2 hs
    simp only [invertRound, hs, Bool.false_eq_true, if_false, two_mul_ushiftRight_one even, h.jumpD_eq]
  | true =>
    have odd : r.s.toNat % 2 = 1 := Nat.mod_two_eq_one_iff_testBit_zero.2 hs
    have even : (r.a * r.s + r.b).toNat % 2 = 0 := ((h.invertible hj).apply_mod_two r.s).trans (by omega)
    simp only [invertRound, hs, if_true, two_mul_ushiftRight_one even]
    rw [← jumpD_jumpD hbase.odd, h.jumpD_eq, jumpD_twoPow base _ hj, h.iterate_square, AffineMap.apply]
    ring

theorem InverterRegs.Tracks.invertRound : (invertRound r j).Tracks base seed (j + 1) where
  invertible hj' := (h.invertible hj).halved_square (by omega)
  iterate_square := h.square_eq hj
  jumpD_eq := h.jumpD_round hbase hj

end Tracks

section Index

variable {w : Nat} {base : AffineMap w} (hbase : base.invertible)
include hbase

theorem tracks_foldl_invertRound (seed : BitVec w) {j : Nat} (hj : j ≤ w) :
    ((List.range j).foldl invertRound { s := seed, t := 0, a := base.a, b := base.b }).Tracks base seed j := by
  induction j with
  | zero => exact ⟨fun _ => hbase, by simp, (jumpD_zero base seed).trans (by simp)⟩
  | succ j ih =>
    rw [List.range_succ, List.foldl_append]
    exact (ih (by omega)).invertRound hbase hj

/-- After `W` rounds the seed has been stepped to a multiple of `2^W`. -/
theorem jumpD_neg_invertIter (seed : BitVec w) :
    jumpD (doublingTable base) seed (-invertIter seed base.a base.b) = 0 := by
  rw [invertIter, neg_neg, (tracks_foldl_invertRound hbase seed le_rfl).jumpD_eq, two_pow_width, zero_mul]

/-- The index of a seed leads to it from 0. -/
theorem jumpD_invertIter (seed : BitVec w) :
    jumpD (doublingTable base) 0 (invertIter seed base.a base.b) = seed := by
  rw [← jumpD_neg_invertIter hbase seed, jumpD_jumpD hbase.odd, neg_add_cancel, jumpD_zero]

/-- There are as many counts as seeds, so the index that leads to a seed is the only count that does. -/
theorem invertIter_jumpD (n : BitVec w) :
    invertIter (jumpD (doublingTable base) 0 n) base.a base.b = n := by
  have right : Function.RightInverse (fun seed => invertIter seed base.a base.b) (jumpD (doublingTable base) 0) :=
    jumpD_invertIter hbase
  exact right.rightInverse_of_injective (Finite.injective_iff_surjective.2 right.surjective) n

end Index

/-- Settles O44: the index is both a right and a left inverse of the jump from 0. -/
theorem inverterCorrect : Obligations.InverterCorrect := fun _ base h =>
  ⟨invertIter_jumpD h, fun seed =>
    ⟨invertIter seed base.a base.b, jumpD_invertIter h seed, fun n hn => hn ▸ (invertIter_jumpD h n).symm⟩⟩

/-! ## The relative index (R214) -/

section GetIndex

variable {w : Nat} {p : ParamSet w} (h : p.forward.invertible)
include h

theorem jumpD_getIndex (s : BitVec w) : jumpD (doublingTable p.forward) 0 (getIndex p s) = s :=
  jumpD_invertIter h s

theorem getIndex_jumpD_zero (n : BitVec w) : getIndex p (jumpD (doublingTable p.forward) 0 n) = n :=
  invertIter_jumpD h n

/-- A jump adds its count to the index. -/
theorem getIndex_jumpD (s d : BitVec w) : getIndex p (jumpD (doublingTable p.forward) s d) = getIndex p s + d := by
  calc getIndex p (jumpD (doublingTable p.forward) s d)
      = getIndex p (jumpD (doublingTable p.forward) (jumpD (doublingTable p.forward) 0 (getIndex p s)) d) := by
        rw [jumpD_getIndex h]
    _ = getIndex p s + d := by rw [jumpD_jumpD h.odd, getIndex_jumpD_zero h]

/-- Two seeds of the same index are one seed. -/
theorem getIndex_injective : Function.Injective (getIndex p) :=
  Function.LeftInverse.injective (jumpD_getIndex h)

end GetIndex

/-- Settles O45: jumps add to the index, and the index determines the seed. -/
theorem relativeIndex : Obligations.RelativeIndex := by
  intro w p s1 s2 d h
  constructor
  · rw [getIndex_jumpD h, add_sub_cancel_left]
  · apply getIndex_injective h
    rw [getIndex_jumpD h, add_sub_cancel]

end Sys2Proof.Machine

/-! The index inverter commands (43_index_inverter.md R213, R214): past NO_VARIANT each one writes one register, and under
the invariant GIX counts the steps from 0. -/

namespace Sys2Proof.Machine

/-- Settles O30: the index is the whole effect. -/
theorem indexResults : Obligations.IndexResults := fun _ _ _ _ hv =>
  ⟨commit_needParams hv _ _, commit_needParams hv _ _⟩

/-- The parameters of every variant but ReverseStdLCG meet R212's precondition. -/
theorem invertible_of_supportedParams {c : Config} {code : Nat} {p : ParamSet c.width.bits}
    (h : supportedParams c code = some p) (h3 : code ≠ 3) : p.forward.invertible := by
  obtain ⟨r, hr, hw, rfl⟩ := supportedParams_some h
  obtain ⟨-, hforward, -⟩ := printed_of_variantRow hr h3
  rwa [← hw]

theorem Block.Inv.forward_invertible {c : Config} {b : Block c.width.bits} (h : b.Inv c) (hv : b.pvalid = true)
    (h3 : b.var ≠ 3) : b.p.forward.invertible :=
  invertible_of_supportedParams (h.selected hv) fun hvar => h3 (BitVec.eq_of_toNat_eq hvar)

/-- Counted as a natural number of steps, the index of the seed `n` steps from 0 is `n`. -/
theorem invertIter_iterate {w : Nat} {base : AffineMap w} (h : base.invertible) {n : Nat} (hn : n < 2 ^ w) :
    invertIter (base.apply^[n] 0) base.a base.b = BitVec.ofNat w n := by
  have steps : jumpD (doublingTable base) 0 (BitVec.ofNat w n) = base.apply^[n] 0 := by
    rw [jumpD_doublingTable, BitVec.toNat_ofNat, Nat.mod_eq_of_lt hn]
  rw [← steps, invertIter_jumpD h]

/-- Settles O53: GIX writes the inverter's result, which is the count. -/
theorem gixCountsSteps : Obligations.GixCountsSteps := by
  intro s xd xs n hs hv hvar hn hseed
  have hinv : s.blk.p.forward.invertible := hvar.elim (hs.forward_invertible hv) id
  have index : invertIter s.blk.x[xs] s.blk.p.mul s.blk.p.add = BitVec.ofNat _ n := by
    rw [hseed]
    exact invertIter_iterate hinv hn
  obtain ⟨hgix, -⟩ := indexResults s xd xs xs hv
  rw [hgix, index]

end Sys2Proof.Machine

/-! The host's accesses by register number (44_register_transfer.md R234 to R236; 60_exceptions.md R258 to R260): what a
step at a CMD write, at a register read and at a register write does. -/

namespace Sys2Proof.Machine

/-! ## CMD writes -/

theorem execute_of_decode_ok {s : State} {w : Command} {i : Instr} (h : decode s.cfg w = .ok i) :
    execute w s = exec i s := by
  simp [execute, h]

theorem execute_of_decode_error {s : State} {w : Command} {c : Cause} (h : decode s.cfg w = .error c) :
    execute w s = s.raise c w := by
  simp [execute, h]

section CmdWrite

variable {s : State} {w : Command} {rest : List HostInput} (hp : s.pending = cmdWrite w :: rest)
include hp

theorem step_cmdWrite_of_fault {c : Cause} (hf : s.blk.fault = some c) :
    step s = .next { s with pending := rest, response := .accepted } := by
  obtain ⟨-, e⟩ | ⟨hclear, -⟩ := writeCmd_cases w { s with pending := rest }
  · exact (step_cmdWrite hp).trans e
  · simp [hf] at hclear

theorem step_cmdWrite_of_clear (hf : s.blk.fault = none) :
    step s = answerCommand (execute w { s with pending := rest }) := by
  obtain ⟨hset, -⟩ | ⟨-, e⟩ := writeCmd_cases w { s with pending := rest }
  · exact absurd hf hset
  · exact (step_cmdWrite hp).trans e

/-- A CMD write that executes is answered on the state its word leaves. -/
theorem step_cmdWrite_of_execute (hf : s.blk.fault = none) {t : State}
    (ht : execute w { s with pending := rest } = .next t) : step s = .next { t with response := .accepted } := by
  rw [step_cmdWrite_of_clear hp hf, ht]
  rfl

end CmdWrite

/-- Settles O6: executing the word is running the command it decodes to. -/
theorem stepRunsDecodedCommand : Obligations.StepRunsDecodedCommand := by
  intro s t w rest i hp hf hdecode ht
  exact step_cmdWrite_of_execute hp hf ((execute_of_decode_ok (s := { s with pending := rest }) hdecode).trans ht)

/-- Settles O7: recording the fault is all that executing the word does. -/
theorem stepRecordsDecodingFault : Obligations.StepRecordsDecodingFault := by
  intro s w rest c hp hf hdecode
  exact step_cmdWrite_of_execute hp hf (execute_of_decode_error hdecode)

/-! ## Registers by number -/

@[simp] theorem hostRegOf_number (r : HostReg) : hostRegOf r.number = some r := by
  cases r <;> rfl

theorem hostRegOf_reserved {r : Fin 16} (h : 6 ≤ r.val) : hostRegOf r = none := by
  unfold hostRegOf
  split
  case h_7 => rfl
  all_goals omega

/-- An access by an assigned number with its register's width reaches that register. -/
@[simp] theorem wholeReg_number (w : Nat) (r : HostReg) : wholeReg w (hostRegOf r.number) (r.bits w) = some r := by
  simp [wholeReg]

theorem writeReg_dataIn (s : State) (v : BitVec s.cfg.width.bits) :
    writeReg .dataIn v s = .next (s.accept { s.blk with dataIn := v }) := by
  simp [writeReg]

section ByNumber

variable {s : State} {rest : List HostInput}

theorem step_read {r : HostReg} (hp : s.pending = .access (.read r.number (r.bits s.cfg.width.bits)) :: rest) :
    step s = .next { s with pending := rest, response := .value (readReg r s) } := by
  simp only [step_access hp, performAccess, wholeReg_number]
  rfl

theorem step_write {r : HostReg} {v : BitVec (r.bits s.cfg.width.bits)}
    (hp : s.pending = .access (.write r.number (r.bits s.cfg.width.bits) v) :: rest) :
    step s = writeReg r v { s with pending := rest } := by
  simp only [step_access hp, performAccess, wholeReg_number]

theorem step_read_reserved {r : Fin 16} (h : 6 ≤ r.val) {bits : Nat}
    (hp : s.pending = .access (.read r bits) :: rest) :
    step s = .next { s with pending := rest, response := .busError } := by
  simp only [step_access hp, performAccess, hostRegOf_reserved h]
  rfl

theorem step_write_reserved {r : Fin 16} (h : 6 ≤ r.val) {bits : Nat} {v : BitVec bits}
    (hp : s.pending = .access (.write r bits v) :: rest) :
    step s = .next { s with pending := rest, response := .busError } := by
  simp only [step_access hp, performAccess, hostRegOf_reserved h]
  rfl

theorem step_write_dataIn {v : BitVec s.cfg.width.bits}
    (hp : s.pending = .access (.write 1 s.cfg.width.bits v) :: rest) :
    step s = .next { s with pending := rest, blk := { s.blk with dataIn := v }, response := .accepted } :=
  (step_write (r := .dataIn) hp).trans (writeReg_dataIn { s with pending := rest } v)

/-- A 1 in bit 0 is the fault return, and without it the write has no effect (10_state.md R34). -/
theorem step_write_status {v : BitVec 32} (hp : s.pending = .access (.write 3 32 v) :: rest) :
    step s = .next { s with
      pending := rest
      blk := if v.getLsbD 0 then s.blk.clearFault else s.blk
      response := .accepted } :=
  step_write (r := .status) hp

end ByNumber

/-- Settles O9: each register's read, at its number. -/
theorem hostReadStep : Obligations.HostReadStep := fun _ _ =>
  ⟨step_read (r := .cmd), step_read (r := .dataIn), step_read (r := .dataOut), step_read (r := .status),
    step_read (r := .fcmd), step_read (r := .config), fun _ _ h => step_read_reserved h⟩

/-- Settles O10: each register's write, at its number. -/
theorem hostWriteStep : Obligations.HostWriteStep := by
  intro s rest
  refine ⟨fun w hp => ⟨fun _ => step_cmdWrite_of_fault hp, fun hf _ => step_cmdWrite_of_execute hp hf⟩,
    fun v hp => step_write_dataIn hp, fun v hp => step_write (r := .dataOut) hp,
    fun v hp => ⟨fun hv => ?_, fun hv => ?_⟩, fun v hp => ?_, fun r bits v h hp => step_write_reserved h hp⟩
  · rw [step_write_status hp, if_pos hv]
    rfl
  · rw [step_write_status hp, if_neg (Bool.eq_false_iff.mp hv)]
  · obtain hp | hp := hp
    · exact step_write (r := .fcmd) hp
    · exact step_write (r := .config) hp

end Sys2Proof.Machine

/-! What every command leaves unchanged (44_register_transfer.md R235; 60_exceptions.md R258, R259; 10_state.md R38): a
command records one fault and does nothing else, or it changes what its rule names and keeps the rest. -/

namespace Sys2Proof.Machine

/-! ## Tables that are stored stay -/

section StoredTables

variable {w : Nat} {b : Block w}

theorem Block.doubling_stored (h : b.dt ≠ none) : some b.doubling = b.dt := by
  obtain ⟨t, ht⟩ := Option.ne_none_iff_exists'.mp h
  simp [Block.doubling, ht]

theorem Block.radix_stored (h : b.rt ≠ none) : some b.radix = b.rt := by
  obtain ⟨r, hr⟩ := Option.ne_none_iff_exists'.mp h
  simp [Block.radix, hr]

theorem Block.ensureRT_dt_stored (h : b.dt ≠ none) : b.ensureRT.dt = b.dt := by
  rcases hr : b.rt with _ | r
  · rw [Block.ensureRT_invalid hr, ← Block.doubling_stored h]
  · rw [Block.ensureRT_valid hr]

end StoredTables

/-! ## What a command may change -/

/-- From `b` to `b'` the setup state changes only as a command other than VSEL may change it. -/
structure Block.SetupKeptBy {w : Nat} (i : Instr) (b b' : Block w) : Prop where
  p : b'.p = b.p
  pvalid : b'.pvalid = b.pvalid
  var : b'.var = b.var
  tables : usesTables i = false → b'.dt = b.dt ∧ b'.rt = b.rt
  radixTable : usesRadixTable i = false → b'.rt = b.rt
  storedDT : b.dt ≠ none → i ≠ .dtb → b'.dt = b.dt
  storedRT : b.rt ≠ none → i ≠ .rtb → b'.rt = b.rt

/-- From `b` to `b'` only what the rule of `i` names changes. -/
structure Block.KeptBy {w : Nat} (i : Instr) (b b' : Block w) : Prop where
  fault : b'.fault = b.fault
  fcmd : b'.fcmd = b.fcmd
  dataIn : b'.dataIn = b.dataIn
  x : ∀ r : RegNum, writesReg r i = false → b'.x[r] = b.x[r]
  dataOut : (∀ xs, i ≠ .rdx xs) → b'.dataOut = b.dataOut
  setup : (∀ code, i ≠ .vsel code) → b.SetupKeptBy i b'

/-- `i` records one fault and does nothing else, or changes only what its rule names. -/
def Block.FaultsOrKeeps {w : Nat} (i : Instr) (b b' : Block w) : Prop :=
  (∃ c, b' = b.raise c (encode i)) ∨ b.KeptBy i b'

section Operations

variable {w : Nat} {i : Instr} {b e : Block w}

theorem Block.SetupKeptBy.refl (i : Instr) (b : Block w) : b.SetupKeptBy i b :=
  ⟨rfl, rfl, rfl, fun _ => ⟨rfl, rfl⟩, fun _ => rfl, fun _ _ => rfl, fun _ _ => rfl⟩

theorem Block.KeptBy.refl (i : Instr) (b : Block w) : b.KeptBy i b :=
  ⟨rfl, rfl, rfl, fun _ _ => rfl, fun _ => rfl, fun _ => .refl i b⟩

namespace Block.KeptBy

/-- A command writes its destination register. -/
theorem setX (h : b.KeptBy i e) {r : RegNum} (hw : ∀ q, writesReg q i = (q == r)) (v : BitVec w) :
    b.KeptBy i (e.setX r v) :=
  { h with
    x := fun q hq => by
      have hne : q ≠ r := by simpa [hw] using hq
      exact (Block.getX_setX_ne e v hne).trans (h.x q hq)
    setup := fun hi => { h.setup hi with } }

/-- A command writes the register pair of its destination map. -/
theorem setMap (h : b.KeptBy i e) {k : MapNum} (hw : ∀ q, writesReg q i = (q == mulReg k || q == addReg k))
    (m : AffineMap w) : b.KeptBy i (e.setMap k m) :=
  { h with
    x := fun q hq => by
      obtain ⟨hm, ha⟩ : q ≠ mulReg k ∧ q ≠ addReg k := by simpa [hw] using hq
      exact (Block.getX_setMap_ne e m hm ha).trans (h.x q hq)
    setup := fun hi => { h.setup hi with } }

theorem setDataOut (b : Block w) (xs : RegNum) (v : BitVec w) : b.KeptBy (.rdx xs) { b with dataOut := v } :=
  { refl (.rdx xs) b with
    dataOut := fun h => absurd rfl (h xs)
    setup := fun _ => { SetupKeptBy.refl (.rdx xs) b with } }

theorem select (b : Block w) (p : ParamSet w) (code : BitVec 12) : b.KeptBy (.vsel code) (b.select p code) :=
  { refl (.vsel code) b with setup := fun h => absurd rfl (h code) }

theorem buildDT (b : Block w) : b.KeptBy .dtb b.buildDT :=
  { refl .dtb b with
    setup := fun _ =>
      { SetupKeptBy.refl .dtb b with
        tables := fun h => by cases h
        storedDT := fun _ h => absurd rfl h } }

theorem buildRT (b : Block w) : b.KeptBy .rtb b.buildRT := by
  rw [Block.buildRT_eq]
  exact
    { refl .rtb b with
      setup := fun _ =>
        { SetupKeptBy.refl .rtb b with
          tables := fun h => by cases h
          radixTable := fun h => by cases h
          storedDT := fun h _ => Block.doubling_stored h
          storedRT := fun _ h => absurd rfl h } }

/-- A command that uses tables may build the doubling tables, where none are stored. -/
theorem ensureDT (b : Block w) (hi : usesTables i = true) : b.KeptBy i b.ensureDT := by
  rw [Block.ensureDT_eq]
  exact
    { refl i b with
      setup := fun _ =>
        { SetupKeptBy.refl i b with
          tables := fun h => by simp [hi] at h
          storedDT := fun h _ => Block.doubling_stored h } }

/-- A command that uses the radix tables may build both tables, each where none is stored. -/
theorem ensureRT (b : Block w) (hi : usesTables i = true) (hr : usesRadixTable i = true) : b.KeptBy i b.ensureRT where
  fault := by simp
  fcmd := by simp
  dataIn := by simp
  x := by simp
  dataOut := by simp
  setup _ :=
    { p := by simp
      pvalid := by simp
      var := by simp
      tables := fun h => by simp [hi] at h
      radixTable := fun h => by simp [hr] at h
      storedDT := fun h _ => Block.ensureRT_dt_stored h
      storedRT := fun h _ => by rw [Block.ensureRT_rt, Block.radix_stored h] }

end Block.KeptBy

theorem Block.FaultsOrKeeps.raise (b : Block w) (c : Cause) : b.FaultsOrKeeps i (b.raise c (encode i)) :=
  .inl ⟨c, rfl⟩

theorem Block.KeptBy.faultsOrKeeps (h : b.KeptBy i e) : b.FaultsOrKeeps i e := .inr h

theorem Block.FaultsOrKeeps.needParams (h : b.FaultsOrKeeps i e) : b.FaultsOrKeeps i (b.needParams i e) := by
  cases hv : b.pvalid with
  | true => rwa [Block.needParams_valid hv]
  | false => rw [Block.needParams_invalid hv]; exact .raise b _

theorem Block.FaultsOrKeeps.needRadix (h : b.FaultsOrKeeps i e) (c : Config) :
    b.FaultsOrKeeps i (b.needRadix c i e) := by
  cases hp : c.rtPresent with
  | true => rwa [Block.needRadix_present b hp]
  | false => rw [Block.needRadix_absent b hp]; exact .raise b _

end Operations

/-! ## Commands -/

/-- The outcome is a next state with another block only, which faults or keeps what `i` does not name. -/
def CompletesWithin (i : Instr) (s : State) (o : Host.Outcome State Fault Refusal) : Prop :=
  ∃ b, o = s.commit b ∧ s.blk.FaultsOrKeeps i b

section Arms

variable {i : Instr} {s : State} {b : Block s.cfg.width.bits}

theorem Block.FaultsOrKeeps.commit (h : s.blk.FaultsOrKeeps i b) : CompletesWithin i s (s.commit b) := ⟨b, rfl, h⟩

theorem Block.KeptBy.commit (h : s.blk.KeptBy i b) : CompletesWithin i s (s.commit b) := h.faultsOrKeeps.commit

/-- A command behind the NO_VARIANT check. -/
theorem Block.KeptBy.commit_needParams (h : s.blk.KeptBy i b) : CompletesWithin i s (s.commit (s.blk.needParams i b)) :=
  h.faultsOrKeeps.needParams.commit

/-- A command behind the radix check and the NO_VARIANT check. -/
theorem Block.KeptBy.commit_needRadix_needParams (h : s.blk.KeptBy i b) :
    CompletesWithin i s (s.commit (s.blk.needRadix s.cfg i (s.blk.needParams i b))) :=
  (h.faultsOrKeeps.needParams.needRadix s.cfg).commit

theorem completesWithin_raise (i : Instr) (s : State) (c : Cause) : CompletesWithin i s (s.raise c (encode i)) :=
  (Block.FaultsOrKeeps.raise s.blk c).commit

end Arms

/-- Every command: its effect is made of writes to the destinations it names and of the tables it may build, behind its
checks. -/
theorem exec_completesWithin (i : Instr) (s : State) : CompletesWithin i s (exec i s) := by
  have kept {j : Instr} : s.blk.KeptBy j s.blk := .refl j s.blk
  cases i with
  | nop => exact kept.commit
  | vsel code =>
    cases hp : supportedParams s.cfg code.toNat with
    | some p => rw [exec_vsel_supported hp]; exact (Block.KeptBy.select s.blk p code).commit
    | none => rw [exec_vsel_unsupported hp]; exact completesWithin_raise ..
  | dtb => exact (Block.KeptBy.buildDT s.blk).commit_needParams
  | rtb => exact (Block.KeptBy.buildRT s.blk).commit_needRadix_needParams
  | ldx xd => exact (kept.setX (fun _ => rfl) _).commit
  | rdx xs => exact (Block.KeptBy.setDataOut s.blk xs _).commit
  | mov xd xs => exact (kept.setX (fun _ => rfl) _).commit
  | stf xd xs => exact (kept.setX (fun _ => rfl) _).commit_needParams
  | stb xd xs => exact (kept.setX (fun _ => rfl) _).commit_needParams
  | jdf xd xs xn => exact ((Block.KeptBy.ensureDT s.blk rfl).setX (fun _ => rfl) _).commit_needParams
  | jdb xd xs xn => exact ((Block.KeptBy.ensureDT s.blk rfl).setX (fun _ => rfl) _).commit_needParams
  | jrf xd xs xn =>
    exact ((Block.KeptBy.ensureRT s.blk rfl rfl).setX (fun _ => rfl) _).commit_needRadix_needParams
  | jrb xd xs xn =>
    exact ((Block.KeptBy.ensureRT s.blk rfl rfl).setX (fun _ => rfl) _).commit_needRadix_needParams
  | gix xd xs => exact (kept.setX (fun _ => rfl) _).commit_needParams
  | gixr xd xs xo => exact (kept.setX (fun _ => rfl) _).commit_needParams
  | mcmp md ms1 ms2 => exact (kept.setMap (fun _ => rfl) _).commit
  | mapp xd ms1 xs => exact (kept.setX (fun _ => rfl) _).commit
  | msq md ms1 => exact (kept.setMap (fun _ => rfl) _).commit
  | mbase md d => exact (kept.setMap (fun _ => rfl) _).commit_needParams
  | mdt md d k =>
    by_cases h : k.toNat < s.cfg.width.bits
    · rw [show exec (.mdt md d k) s = _ from dif_pos h]
      exact ((Block.KeptBy.ensureDT s.blk rfl).setMap (fun _ => rfl) _).commit_needParams
    · rw [exec_mdt_outOfRange (Nat.not_lt.mp h)]; exact completesWithin_raise ..
  | mrt md d p v =>
    refine (Block.FaultsOrKeeps.needRadix ?_ _).commit
    split
    · exact ((Block.KeptBy.ensureRT s.blk rfl rfl).setMap (fun _ => rfl) _).faultsOrKeeps.needParams
    · exact .raise ..
  | mid md => exact (kept.setMap (fun _ => rfl) _).commit

/-- Settles O19: the two ways a command completes are the statement's two cases. -/
theorem commandFrames : Obligations.CommandFrames := by
  intro i s
  obtain ⟨b, e, ⟨c, rfl⟩ | h⟩ := exec_completesWithin i s
  · exact .inl ⟨c, e⟩
  · refine .inr ⟨b, e, h.fault, h.fcmd, h.dataIn, h.x, h.dataOut, fun hi => ?_⟩
    obtain ⟨hp, hpvalid, hvar, htables, hradix, hdt, hrt⟩ := h.setup hi
    exact ⟨hp, hpvalid, hvar, htables, hradix, hdt, hrt⟩

end Sys2Proof.Machine

/-! Faults at the host port (60_exceptions.md R260 to R262, R269): an access the block refuses, what is still performed while
a fault is recorded, and a step with nothing to perform. -/

namespace Sys2Proof.Machine

/-! ## Nothing pending -/

/-- The step with no input. -/
theorem step_idle {s : State} (h : s.pending = []) : step s = .next s := by
  simp [step, performNext, h]

/-- Settles O14. -/
theorem idleKeepsAllState : Obligations.IdleKeepsAllState := fun _ => step_idle

/-- Settles O8: only the CMD write asks whether a fault is recorded. -/
theorem faultDiscardsCommands : Obligations.FaultDiscardsCommands := by
  intro s rest c hf
  refine ⟨fun w hp => step_cmdWrite_of_fault hp hf, fun v hp => step_write_dataIn hp, fun v hv hp => ?_,
    fun r hp => step_read hp⟩
  rw [step_write_status hp, if_pos hv]
  rfl

/-! ## Refused accesses -/

/-- A number that reaches a register is that register's. -/
theorem eq_number_of_hostRegOf {q : Fin 16} {r : HostReg} (h : hostRegOf q = some r) : q = r.number := by
  unfold hostRegOf at h
  split at h
  case h_7 => cases h
  all_goals
    cases h
    exact Fin.ext ‹_›

/-- The widths of R61 by register number. -/
theorem HostReg.bits_eq (r : HostReg) (w : Nat) : r.bits w = if r.number = 1 ∨ r.number = 2 then w else 32 := by
  cases r <;> rfl

/-- An access by a reserved number or of another width reaches no register. -/
theorem wholeReg_refused {w : Nat} {q : Fin 16} {bits : Nat}
    (h : 6 ≤ q.val ∨ bits ≠ if q = 1 ∨ q = 2 then w else 32) : wholeReg w (hostRegOf q) bits = none := by
  cases hr : wholeReg w (hostRegOf q) bits with
  | none => rfl
  | some r =>
    obtain ⟨hq, hbits⟩ := wholeReg_bits hr
    obtain hres | hne := h
    · simp [hostRegOf_reserved hres] at hq
    · rw [r.bits_eq, ← eq_number_of_hostRegOf hq] at hbits
      exact absurd hbits hne

/-- An access off a slot's base, to a reserved slot or of another number of bytes reaches no register. -/
theorem wholeReg_slot_refused {w : Nat} {o : Fin 128} {bits : Nat}
    (h : o.val % 8 ≠ 0 ∨ 6 ≤ o.val / 8 ∨ bits ≠ if o.val / 8 = 1 ∨ o.val / 8 = 2 then w else 32) :
    wholeReg w (slotReg o) bits = none := by
  by_cases hbase : o.val % 8 = 0
  · rw [slotReg, if_pos hbase]
    exact wholeReg_refused (by simpa [Fin.ext_iff, hbase] using h)
  · simp [slotReg, hbase, wholeReg]

/-- Settles O11: an access that reaches no register is answered and does nothing else. -/
theorem refusedAccessChangesNothing : Obligations.RefusedAccessChangesNothing := by
  intro s rest
  refine ⟨fun r bits v h hp => ?_, fun o bytes h hp => ?_⟩
  · obtain hp | hp := hp <;> (simp only [step_access hp, performAccess, wholeReg_refused h]; rfl)
  · obtain hp | hp := hp <;> (simp only [step_access hp, performAccess, wholeReg_slot_refused h]; rfl)

/-! ## The record while FAULT = 1 -/

/-- An outcome of `s` whose next state, if it has one, has the same FCMD, and the same FAULT and CAUSE unless `clears`. -/
def KeepsRecord (clears : Bool) (s : State) (o : Host.Outcome State Fault Refusal) : Prop :=
  ∀ t, o = .next t → t.blk.fcmd = s.blk.fcmd ∧ (clears = false → t.blk.fault = s.blk.fault)

@[simp] theorem keepsRecord_next {clears : Bool} {s t : State} :
    KeepsRecord clears s (.next t) ↔ t.blk.fcmd = s.blk.fcmd ∧ (clears = false → t.blk.fault = s.blk.fault) :=
  ⟨fun h => h t rfl, fun h u e => by cases e; exact h⟩

/-- While FAULT = 1 the one write that touches the record is the fault return. -/
theorem writeReg_keepsRecord {s : State} (hf : s.blk.fault ≠ none) (r : HostReg) {n : Nat} (v : BitVec n) :
    KeepsRecord (r = .status && v.getLsbD 0) s (writeReg r v s) := by
  cases r with
  | cmd =>
    obtain ⟨-, e⟩ | ⟨hclear, -⟩ := writeCmd_cases (v.setWidth 32) s
    · rw [show writeReg .cmd v s = _ from e]
      exact keepsRecord_next.2 ⟨rfl, fun _ => rfl⟩
    · exact absurd hclear hf
  | status =>
    refine keepsRecord_next.2 ⟨?_, fun hv => ?_⟩
    · rw [State.accept_blk]
      split <;> rfl
    · rw [State.accept_blk, if_neg (by simpa using hv)]
  | dataIn | dataOut | fcmd | config => exact keepsRecord_next.2 ⟨rfl, fun _ => rfl⟩

/-- A write by number clears a fault when it reaches STATUS with bit 0 = 1 (R261). -/
theorem clearsFault_write {w : Nat} {q : Fin 16} {r : HostReg} {bits : Nat} (hq : hostRegOf q = some r)
    (hbits : bits = r.bits w) (v : BitVec bits) :
    clearsFault (.access (.write q bits v)) = (r = .status && v.getLsbD 0) := by
  obtain rfl := eq_number_of_hostRegOf hq
  subst hbits
  cases r <;> simp [clearsFault, HostReg.number, HostReg.bits]

/-- A slot that reaches a register is based at eight times the register's number. -/
theorem base_of_slotReg {o : Fin 128} {r : HostReg} (h : slotReg o = some r) : o.val = 8 * r.number.val := by
  unfold slotReg at h
  split at h
  next hbase =>
    have hnumber := congrArg Fin.val (eq_number_of_hostRegOf h)
    simp only at hnumber
    omega
  next => cases h

/-- STATUS is the register at offset 24. -/
theorem eq_24_iff_of_slotReg {o : Fin 128} {r : HostReg} (h : slotReg o = some r) : o = 24 ↔ r = .status := by
  have hbase := base_of_slotReg h
  rw [Fin.ext_iff, hbase]
  cases r <;> simp [HostReg.number]

/-- A write of a slot's bytes clears a fault when it reaches STATUS with bit 0 = 1 (R261). -/
theorem clearsFault_writeBytes {w : Nat} {o : Fin 128} {r : HostReg} {bytes : List Byte} (ho : slotReg o = some r)
    (hbits : 8 * bytes.length = r.bits w) :
    clearsFault (.access (.writeBytes o bytes)) =
      (r = .status && (slotValue (8 * bytes.length) bytes).getLsbD 0) := by
  by_cases hr : r = .status
  · subst hr
    have hlen : bytes.length = 4 := by
      have : 8 * bytes.length = 32 := hbits
      omega
    obtain ⟨b0, b1, b2, b3, rfl⟩ := List.length_eq_four.mp hlen
    have hbit := slotValue_getLsbD 32 [b0, b1, b2, b3] 0 0 (by decide) (by decide)
    simpa [clearsFault, (eq_24_iff_of_slotReg ho).mpr rfl] using hbit.symm
  · have hne : o ≠ 24 := mt (eq_24_iff_of_slotReg ho).mp hr
    simp only [clearsFault, hne, hr]
    split <;> simp

/-- While FAULT = 1 an access keeps FCMD, and FAULT and CAUSE too unless it is the clearing write. -/
theorem performAccess_keepsRecord {s : State} (hf : s.blk.fault ≠ none) (a : HostAccess) :
    KeepsRecord (clearsFault (.access a)) s (performAccess a s) := by
  cases a with
  | read q bits =>
    cases h : wholeReg s.cfg.width.bits (hostRegOf q) bits <;> simp [performAccess, h]
  | readBytes o count =>
    cases h : wholeReg s.cfg.width.bits (slotReg o) (8 * count) <;> simp [performAccess, h]
  | write q bits v =>
    cases h : wholeReg s.cfg.width.bits (hostRegOf q) bits with
    | none => simp [performAccess, h]
    | some r =>
      obtain ⟨hq, hbits⟩ := wholeReg_bits h
      rw [clearsFault_write hq hbits]
      simpa only [performAccess, h] using writeReg_keepsRecord hf r v
  | writeBytes o bytes =>
    cases h : wholeReg s.cfg.width.bits (slotReg o) (8 * bytes.length) with
    | none => simp [performAccess, h]
    | some r =>
      obtain ⟨ho, hbits⟩ := wholeReg_bits h
      rw [clearsFault_writeBytes ho hbits]
      simpa only [performAccess, h] using writeReg_keepsRecord hf r (slotValue _ bytes)

/-- Settles O55: past an idle step and the resets, which the statement leaves out, a step is an access. -/
theorem firstFaultRecordKept : Obligations.FirstFaultRecordKept := by
  intro s t c hf ht
  cases hp : s.pending with
  | nil =>
    rw [step_idle hp] at ht
    cases ht
    exact ⟨fun _ => ⟨hf, rfl⟩, fun _ _ h => by cases h⟩
  | cons i rest =>
    cases i with
    | access a =>
      rw [step_access hp] at ht
      obtain ⟨hfcmd, hkept⟩ := performAccess_keepsRecord (s := { s with pending := rest }) (by simp [hf]) a t ht
      exact ⟨fun h => ⟨(hkept (h _ rfl)).trans hf, hfcmd⟩, fun _ _ _ => hfcmd⟩
    | reset => exact ⟨fun h => (by cases h _ rfl), fun _ _ h => by cases h⟩
    | resetDuring a => exact ⟨fun h => (by cases h _ rfl), fun _ _ h => by cases h⟩

end Sys2Proof.Machine

/-! The decoding faults (30_encoding.md R95; 60_exceptions.md R251 to R253): the row of a word's opcode is the only one, so
each test of decoding is a test of that row. -/

namespace Sys2Proof

/-- The opcode picks one row. -/
theorem ofCode_eq_some_iff {b : BitVec 8} {op : Op} : Op.ofCode b = some op ↔ op.code = b :=
  ⟨code_of_ofCode, fun h => by rw [← h, ofCode_code]⟩

section Row

variable {c : Config} {w : Command} {op : Op} (hop : Op.ofCode (opField w) = some op)
include hop

theorem decode_absent_row (hradix : op.radixOnly = true) (hrt : c.rtPresent = false) :
    decode c w = .error .illegalOpcode := by
  simp [decode, hop, hradix, hrt]

variable (hpresent : op.radixOnly = true → c.rtPresent = true)
include hpresent

theorem decode_of_not_match (hmask : w &&& op.mask ≠ op.pattern) : decode c w = .error .illegalOperand := by
  have hrow : (op.radixOnly && !c.rtPresent) = false := by simpa using hpresent
  simp [decode, hop, hrow, hmask]

theorem decode_of_outOfRange (hmask : w &&& op.mask = op.pattern) (hindex : indexOutOfRange c op w = true) :
    decode c w = .error .indexRange := by
  have hrow : (op.radixOnly && !c.rtPresent) = false := by simpa using hpresent
  simp [decode, hop, hrow, hmask, hindex]

end Row

theorem indexOutOfRange_iff (c : Config) (op : Op) (w : Command) :
    indexOutOfRange c op w = true ↔
      op = .mdt ∧ c.width.bits ≤ (w.extractLsb' 1 7).toNat ∨
        op = .mrt ∧ c.width.bits / 8 ≤ (w.extractLsb' 1 3).toNat := by
  simp [indexOutOfRange]

/-- Settles O4: an opcode without a row is illegal; with one, the row's tests decide in R95's order. -/
theorem decodingFaultOrder : Obligations.DecodingFaultOrder := by
  intro c w
  have hfield : w.extractLsb' 24 8 = opField w := rfl
  simp only [hfield, ← ofCode_eq_some_iff, ← indexOutOfRange_iff]
  cases hop : Op.ofCode (opField w) with
  | none => simp [decode, hop]
  | some op =>
    simp only [Option.some.injEq, forall_eq', exists_eq_left']
    by_cases hpresent : op.radixOnly = true → c.rtPresent = true
    · by_cases hmask : w &&& op.mask = op.pattern
      · cases hindex : indexOutOfRange c op w with
        | true => simpa [decode_of_outOfRange hop hpresent hmask hindex, hmask] using hpresent
        | false => simpa [(decodeIsRowMatch c w _).mpr ⟨op, hpresent, hmask, hindex, rfl⟩, hmask] using hpresent
      · simpa [decode_of_not_match hop hpresent hmask, hmask] using hpresent
    · obtain ⟨hradix, hrt⟩ : op.radixOnly = true ∧ c.rtPresent = false := by simpa using hpresent
      simp [decode_absent_row hop hradix hrt, hradix, hrt]

end Sys2Proof

/-! The faults of a command's own checks (60_exceptions.md R254, R255) and the truth of the record (R250, R258 to R261): a
command that decoded raises NO_VARIANT or ILLEGAL_VARIANT only, and from then on nothing the record rests on changes. -/

namespace Sys2Proof.Machine

/-! ## ILLEGAL_VARIANT -/

theorem exists_variantRow_iff (c : Config) (code : Nat) :
    (∃ r, variantRow c code = some r) ↔ code < 5 ∧ (code = 3 → c.revstdPresent = true) := by
  match code with
  | 0 | 1 | 2 | 3 | 4 | _ + 5 => simp [variantRow]

/-- The supported codes: those with a row, which has the configured width (R124, R125). -/
theorem exists_supportedParams_iff (c : Config) (code : Nat) :
    (∃ p, supportedParams c code = some p) ↔
      (code < 5 ∧ (code = 3 → c.revstdPresent = true)) ∧ c.width = if code = 4 then .w64 else .w32 := by
  rw [← exists_variantRow_iff]
  constructor
  · rintro ⟨p, hp⟩
    obtain ⟨r, hr, hw, -⟩ := supportedParams_some hp
    exact ⟨⟨r, hr⟩, hw.symm.trans (variantRow_width hr)⟩
  · rintro ⟨⟨r, hr⟩, hw⟩
    exact ⟨_, supportedParams_of_row hr ((variantRow_width hr).trans hw.symm)⟩

/-- Settles O25: VSEL faults on the unsupported codes. -/
theorem illegalVariantFault : Obligations.IllegalVariantFault := by
  intro s code
  refine ⟨fun h => exec_vsel_unsupported (Option.eq_none_iff_forall_ne_some.mpr fun p hp => ?_), fun h => ?_⟩
  · obtain ⟨⟨hlt, hrevstd⟩, hw⟩ := (exists_supportedParams_iff s.cfg code.toNat).mp ⟨p, hp⟩
    obtain h5 | ⟨rfl, hw32⟩ | ⟨h3, hw64⟩ | ⟨rfl, habsent⟩ := h
    · omega
    · simp [hw32] at hw
    · rw [if_neg (by omega), hw64] at hw
      cases hw
    · simp [habsent] at hrevstd
  · obtain ⟨p, hp⟩ : ∃ p, supportedParams s.cfg code.toNat = some p := by
      rw [exists_supportedParams_iff]
      obtain ⟨h2, hw⟩ | ⟨rfl, hw, hrevstd⟩ | ⟨rfl, hw⟩ := h
      · exact ⟨⟨by omega, by omega⟩, by rw [if_neg (by omega), hw]⟩
      · exact ⟨⟨by decide, fun _ => hrevstd⟩, hw⟩
      · exact ⟨⟨by decide, by simp⟩, hw⟩
    exact ⟨p, exec_vsel_supported hp⟩

/-! ## NO_VARIANT -/

/-- A command that reads the parameters, and is well formed, comes to the NO_VARIANT check, and what it does
behind the check records no fault. -/
theorem exec_of_readsParams {i : Instr} {s : State} (hi : readsParams i = true) (hwf : i.wellFormed s.cfg = true) :
    ∃ e, exec i s = s.commit (s.blk.needParams i e) ∧ e.fault = s.blk.fault := by
  obtain ⟨hpresent, hfits⟩ : i.presentIn s.cfg = true ∧ i.indexFits s.cfg = true := by
    simpa [Instr.wellFormed] using hwf
  have behindRadix (j : Instr) (e : Block s.cfg.width.bits) (hr : s.cfg.rtPresent = true) :
      s.commit (s.blk.needRadix s.cfg j e) = s.commit e :=
    congrArg s.commit (Block.needRadix_present _ hr j e)
  cases i with
  | dtb => exact ⟨_, rfl, by simp⟩
  | rtb => exact ⟨_, behindRadix _ _ hpresent, by simp [Block.buildRT_eq]⟩
  | stf xd xs => exact ⟨_, rfl, by simp⟩
  | stb xd xs => exact ⟨_, rfl, by simp⟩
  | jdf xd xs xn => exact ⟨_, rfl, by simp [Block.jumpByDoubling]⟩
  | jdb xd xs xn => exact ⟨_, rfl, by simp [Block.jumpByDoubling]⟩
  | jrf xd xs xn => exact ⟨_, behindRadix _ _ hpresent, by simp [Block.jumpByRadix]⟩
  | jrb xd xs xn => exact ⟨_, behindRadix _ _ hpresent, by simp [Block.jumpByRadix]⟩
  | gix xd xs => exact ⟨_, rfl, by simp⟩
  | gixr xd xs xo => exact ⟨_, rfl, by simp⟩
  | mbase md d => exact ⟨_, rfl, by simp⟩
  | mdt md d k => exact ⟨_, dif_pos (of_decide_eq_true hfits), by simp⟩
  | mrt md d p v =>
    exact ⟨_, (behindRadix _ _ hpresent).trans (congrArg s.commit (dif_pos (of_decide_eq_true hfits))), by simp⟩
  | nop | vsel | ldx | rdx | mov | mcmp | mapp | msq | mid => cases hi

/-- Settles O20. -/
theorem noVariantFault : Obligations.NoVariantFault := by
  intro i s hi hwf hv
  obtain ⟨e, he, -⟩ := exec_of_readsParams hi hwf
  exact he.trans (congrArg s.commit (Block.needParams_invalid hv i e))

/-- A command that does not read the parameters records no fault, but for VSEL of an unsupported code. -/
theorem exec_of_not_readsParams {i : Instr} (s : State) (hi : readsParams i = false) :
    (∃ b, exec i s = s.commit b ∧ b.fault = s.blk.fault) ∨
      ∃ code, i = .vsel code ∧ supportedParams s.cfg code.toNat = none := by
  cases i with
  | vsel code =>
    cases hp : supportedParams s.cfg code.toNat with
    | some p => exact .inl ⟨_, exec_vsel_supported hp, rfl⟩
    | none => exact .inr ⟨code, rfl, hp⟩
  | nop | ldx | rdx | mov | mcmp | mapp | msq | mid => exact .inl ⟨_, rfl, rfl⟩
  | dtb | rtb | stf | stb | jdf | jdb | jrf | jrb | gix | gixr | mbase | mdt | mrt => cases hi

/-! ## The record is true -/

/-- The fault record of a block is true: `State.FaultRecordTrue` of the block alone. -/
def Block.RecordTrue (c : Config) (b : Block c.width.bits) : Prop := ∀ cause, b.fault = some cause → b.explains c cause

section Record

variable {c : Config} {b b' : Block c.width.bits}

theorem Block.recordTrue_of_clear (h : b.fault = none) : b.RecordTrue c := by
  intro cause hcause
  simp [h] at hcause

/-- The record rests on FAULT, CAUSE, FCMD and PVALID, and on nothing else. -/
theorem Block.RecordTrue.of_eq (h : b.RecordTrue c) (hf : b'.fault = b.fault) (hw : b'.fcmd = b.fcmd)
    (hv : b'.pvalid = b.pvalid) : b'.RecordTrue c := by
  intro cause hcause
  have hb := h cause (hf ▸ hcause)
  cases cause <;> simpa only [Block.explains, hw, hv] using hb

/-- A decoding fault is recorded with the word that decodes to it. -/
theorem Block.explains_of_decode_error {cause : Cause} {w : Command} (h : decode c w = .error cause) :
    (b.raise cause w).explains c cause := by
  obtain ⟨-, -, -, hvariant, hparams⟩ := decodingFaultOrder c w
  cases cause with
  | illegalOpcode | illegalOperand | indexRange => exact h
  | illegalVariant => exact absurd h hvariant
  | noVariant => exact absurd h hparams

end Record

/-- An outcome whose next state, if it has one, has a true record. -/
def NextRecordTrue (o : Host.Outcome State Fault Refusal) : Prop := ∀ t, o = .next t → t.FaultRecordTrue

@[simp] theorem nextRecordTrue_next (s : State) : NextRecordTrue (.next s) ↔ s.FaultRecordTrue :=
  ⟨fun h => h s rfl, fun h t e => by cases e; exact h⟩

theorem Block.RecordTrue.commit {s : State} {b : Block s.cfg.width.bits} (h : b.RecordTrue s.cfg) :
    NextRecordTrue (s.commit b) :=
  (nextRecordTrue_next { s with blk := b }).2 h

theorem raise_nextRecordTrue {s : State} {cause : Cause} {w : Command}
    (h : (s.blk.raise cause w).explains s.cfg cause) : NextRecordTrue (s.raise cause w) := by
  refine Block.RecordTrue.commit fun cause' hcause => ?_
  cases hcause
  exact h

/-- The fault of a command that decoded is one of its own checks, and its encoding is the word it was decoded from. -/
theorem exec_nextRecordTrue {i : Instr} {s : State} {w : Command} (hf : s.blk.fault = none)
    (hdecode : decode s.cfg w = .ok i) : NextRecordTrue (exec i s) := by
  obtain ⟨rfl, hwf⟩ := encodeOfDecode _ _ _ hdecode
  cases hi : readsParams i with
  | true =>
    obtain ⟨e, he, hclear⟩ := exec_of_readsParams hi hwf
    rw [he]
    cases hv : s.blk.pvalid with
    | true =>
      rw [Block.needParams_valid hv]
      exact (Block.recordTrue_of_clear (hclear.trans hf)).commit
    | false =>
      rw [Block.needParams_invalid hv]
      exact raise_nextRecordTrue ⟨hv, i, hdecode, hi⟩
  | false =>
    obtain ⟨b, he, hclear⟩ | ⟨code, rfl, hunsupported⟩ := exec_of_not_readsParams s hi
    · rw [he]
      exact (Block.recordTrue_of_clear (hclear.trans hf)).commit
    · rw [exec_vsel_unsupported hunsupported]
      exact raise_nextRecordTrue ⟨code, hdecode, hunsupported⟩

theorem execute_nextRecordTrue (w : Command) {s : State} (hf : s.blk.fault = none) : NextRecordTrue (execute w s) := by
  obtain ⟨c, hdecode, e⟩ | ⟨i, hdecode, e⟩ := execute_cases w s
  · rw [e]
    exact raise_nextRecordTrue (Block.explains_of_decode_error hdecode)
  · rw [e]
    exact exec_nextRecordTrue hf hdecode

theorem NextRecordTrue.answerCommand {o : Host.Outcome State Fault Refusal} (h : NextRecordTrue o) :
    NextRecordTrue (answerCommand o) := by
  cases o with
  | next s => exact (nextRecordTrue_next _).2 ((nextRecordTrue_next s).1 h)
  | fault f => intro t e; cases e
  | refused r => intro t e; cases e

/-- A command executes on a clear record only; no other write touches the record, but to clear it. -/
theorem writeReg_nextRecordTrue (r : HostReg) {n : Nat} (v : BitVec n) {s : State} (h : s.FaultRecordTrue) :
    NextRecordTrue (writeReg r v s) := by
  cases r with
  | cmd =>
    show NextRecordTrue (writeCmd (v.setWidth 32) s)
    obtain ⟨-, e⟩ | ⟨hf, e⟩ := writeCmd_cases (v.setWidth 32) s
    · rw [e]
      exact (nextRecordTrue_next _).2 h
    · rw [e]
      exact (execute_nextRecordTrue _ hf).answerCommand
  | dataIn =>
    exact (nextRecordTrue_next _).2
      (Block.RecordTrue.of_eq h (b' := { s.blk with dataIn := v.setWidth s.cfg.width.bits }) rfl rfl rfl)
  | status =>
    refine (nextRecordTrue_next _).2 ?_
    show Block.RecordTrue s.cfg (if v.getLsbD 0 then s.blk.clearFault else s.blk)
    split
    · exact Block.recordTrue_of_clear rfl
    · exact h
  | dataOut | fcmd | config => exact (nextRecordTrue_next _).2 h

theorem performAccess_nextRecordTrue (a : HostAccess) {s : State} (h : s.FaultRecordTrue) :
    NextRecordTrue (performAccess a s) := by
  obtain e | ⟨r, e⟩ | ⟨r, e⟩ | ⟨r, n, v, -, e⟩ := performAccess_cases a s
  · rw [e]; exact (nextRecordTrue_next _).2 h
  · rw [e]; exact (nextRecordTrue_next _).2 h
  · rw [e]; exact (nextRecordTrue_next _).2 h
  · rw [e]; exact writeReg_nextRecordTrue r v h

/-- Settles O50: a step is idle, one access, or a reset, which leaves no record. -/
theorem stepKeepsFaultRecord : Obligations.StepKeepsFaultRecord := by
  intro s t h ht
  suffices hstep : NextRecordTrue (step s) from hstep t ht
  cases hp : s.pending with
  | nil => rw [step_idle hp]; exact (nextRecordTrue_next s).2 h
  | cons i rest =>
    cases i with
    | access a => rw [step_access hp]; exact performAccess_nextRecordTrue a h
    | reset => rw [step_reset hp]; exact (nextRecordTrue_next _).2 (faultRecordAtReset s.cfg)
    | resetDuring a => rw [step_resetDuring hp]; exact (nextRecordTrue_next _).2 (faultRecordAtReset s.cfg)

end Sys2Proof.Machine

/-! Reset as an input (70_reset_and_hazards.md R290, R292). -/

namespace Sys2Proof.Machine

/-- Settles O15: either reset input only resets the block, so the interrupted access `a` has no part in the step. -/
theorem resetInput : Obligations.ResetInput := fun _ _ _ => ⟨step_reset, step_resetDuring⟩

end Sys2Proof.Machine
